-- ==== Sys2Proof/Word.lean ====
section
/-! DEFINITION. The value types of Bech32 CORE: the command word, the symbol, the character, the checksum
accumulator and the data element (00_scope.md R5, R6, R7). -/

namespace Sys2Proof

/-- The command word `CMD`: 32 bits, one value, no byte order (R46, R60). -/
abbrev Word := BitVec 32

/-- A symbol: 5 bits (`SYM_W`, R5). -/
abbrev Symbol := BitVec 5

/-- A character of an HRP: its code, `CHAR_W = 8` bits (R6, decision D7). -/
abbrev Code := BitVec 8

/-- The checksum accumulator `CHK` and the result `R`: `CHK_W = 30` bits (R5, R21, R27). -/
abbrev Chk := BitVec 30

/-- An element of `D` or of `O`: an unsigned number (R40). The spec leaves its width `ELEM_W` open and allows
unbounded naturals (R6, decision D8); the bound is the invariant of Sys2Proof/Safety.lean (log 6). -/
abbrev Elem := Nat

end Sys2Proof
end

