-- ==== Sys2Proof/Syntax.lean ====
section
/-! DEFINITION. The nine commands of the block (30_encoding.md R61, spec/opcode_table.json), one constructor a
row, with the scalar fields of the command word (R60). The sequence operands `H` and `D` are presented beside
the word (R26) and stand in State. -/

namespace Sys2Proof

/-- A command: the operation and the fields it uses (R61, column "fields used"). -/
inductive Instr where
  /-- EXPAND, `OP = 0x1` (R104). -/
  | expand
  /-- POLYMOD, `OP = 0x2` (R103). -/
  | polymod
  /-- VERIFY, `OP = 0x3` (R105). -/
  | verify
  /-- CREATE, `OP = 0x4` (R106). -/
  | create
  /-- CONVERTBITS, `OP = 0x5`, with `PAD`, `FROMBITS` and `TOBITS` (R127). -/
  | convertbits (pad : Bool) (fromBits toBits : BitVec 6)
  /-- B32ENC, `OP = 0x6` (R144). -/
  | b32enc
  /-- B32DEC, `OP = 0x7` (R155). -/
  | b32dec
  /-- WENC, `OP = 0x8`, with `WITVER` (R176). -/
  | wenc (witVer : Symbol)
  /-- WDEC, `OP = 0x9` (R170). -/
  | wdec
  deriving DecidableEq, Repr

end Sys2Proof
end

