-- ==== Sys2Proof/Decode.lean ====
section
/-! DEFINITION. The command word C32 (30_encoding.md R60 to R63): decoding, total on every 32-bit word and
rejecting by name, and encoding, both written from the field table of R60 and the operation table of R61. -/

namespace Sys2Proof

/-- Why a word is no command (R63); each is the spec's `illegal_command`. -/
inductive DecodeError where
  /-- A reserved field of R60 is not 0. -/
  | reservedField
  /-- `OP` is 0x0 or 0xA..0xF. -/
  | reservedOp
  /-- A field its command does not use is not 0. -/
  | unusedField
  deriving DecidableEq, Repr

/-- `CMD[3:0]` (R60). -/
def opField (w : Word) : BitVec 4 := w.extractLsb' 0 4
/-- `CMD[4]` (R60). -/
def padField (w : Word) : Bool := w.getLsbD 4
/-- `CMD[13:8]` (R60). -/
def fromField (w : Word) : BitVec 6 := w.extractLsb' 8 6
/-- `CMD[21:16]` (R60). -/
def toField (w : Word) : BitVec 6 := w.extractLsb' 16 6
/-- `CMD[28:24]` (R60). -/
def verField (w : Word) : Symbol := w.extractLsb' 24 5

/-- The reserved fields `CMD[7:5]`, `CMD[15:14]`, `CMD[23:22]`, `CMD[31:29]` are all 0 (R60, R62). -/
def reservedClear (w : Word) : Bool := w &&& 0xE0C0C0E0#32 == 0#32

/-- The fields only CONVERTBITS uses are all 0. -/
def convFieldsClear (w : Word) : Bool := !padField w && fromField w == 0#6 && toField w == 0#6

/-- The field only WENC uses is 0. -/
def verFieldClear (w : Word) : Bool := verField w == 0#5

/-- R62: a word is the command `i` when the fields `i` does not use are 0. -/
def ifUnusedClear (clear : Bool) (i : Instr) : Except DecodeError Instr :=
  if clear then .ok i else .error .unusedField

/-- The command a word stands for, or why it stands for none (R60 to R63). -/
def decode (w : Word) : Except DecodeError Instr :=
  if reservedClear w then
    let plain := convFieldsClear w && verFieldClear w
    match (opField w).toNat with
    | 1 => ifUnusedClear plain .expand
    | 2 => ifUnusedClear plain .polymod
    | 3 => ifUnusedClear plain .verify
    | 4 => ifUnusedClear plain .create
    | 5 => ifUnusedClear (verFieldClear w) (.convertbits (padField w) (fromField w) (toField w))
    | 6 => ifUnusedClear plain .b32enc
    | 7 => ifUnusedClear plain .b32dec
    | 8 => ifUnusedClear (convFieldsClear w) (.wenc (verField w))
    | 9 => ifUnusedClear plain .wdec
    | _ => .error .reservedOp
  else .error .reservedField

/-- R61: the number of an operation. -/
def opNumber : Instr → BitVec 4
  | .expand => 0x1
  | .polymod => 0x2
  | .verify => 0x3
  | .create => 0x4
  | .convertbits _ _ _ => 0x5
  | .b32enc => 0x6
  | .b32dec => 0x7
  | .wenc _ => 0x8
  | .wdec => 0x9

/-- The scalar fields of a command, each at its place in the word (R60, R62). -/
def fieldBits : Instr → Word
  | .convertbits pad fromBits toBits =>
    ((BitVec.ofBool pad).zeroExtend 32 <<< 4) ||| (fromBits.zeroExtend 32 <<< 8) ||| (toBits.zeroExtend 32 <<< 16)
  | .wenc witVer => witVer.zeroExtend 32 <<< 24
  | .expand => 0
  | .polymod => 0
  | .verify => 0
  | .create => 0
  | .b32enc => 0
  | .b32dec => 0
  | .wdec => 0

/-- The word of a command (R62). -/
def encode (i : Instr) : Word := (opNumber i).zeroExtend 32 ||| fieldBits i

/-- The instruction the decoder reads from a table word: `w` has `nbits` bits, numbered as spec/opcode_table.json
numbers them, every bit above them is 0. A command is ONE 32-bit value (R46, R60), so nothing is laid out in
bytes (log 2). -/
def decodeTableWord (nbits w : Nat) : Option Instr :=
  if w % 2 ^ nbits < 2 ^ 32 then
    match decode (BitVec.ofNat 32 (w % 2 ^ nbits)) with
    | .ok i => some i
    | .error _ => none
  else none

end Sys2Proof
end

