-- ==== Sys2Proof/Machine/State.lean ====
section
/-! DEFINITION. The state of Bech32 CORE (10_state.md): the host's inputs, the result record, the three working
registers, and the model's own two fields (what the host does next, and the free-value counter). -/

namespace Sys2Proof.Machine

/-- The `STATUS` of a result record (R27, R31). -/
inductive Status where
  /-- `OK`: the command succeeded and delivered its results. -/
  | ok
  /-- `FAIL`: the command ended with no result (R190, R192). -/
  | fail
  /-- `REFUSED`: the command was not executed (R193). -/
  | refused
  deriving DecidableEq, Repr

/-- Why a command is refused (R193). The block shows only `REFUSED`; the reasons are for the reader. -/
inductive RefuseReason where
  /-- Reserved `OP`, non-zero reserved or unused field (R63). -/
  | illegalCommand
  /-- CONVERTBITS with a width 0 or above `CONV_WMAX` (R64). -/
  | illegalWidth
  /-- An element above 31 for POLYMOD, VERIFY, CREATE, B32ENC (R108). -/
  | symbolOutOfRange
  /-- An input sequence, or the output the command would make, longer than `SEQ_MAX` (R6). -/
  | tooLong
  deriving DecidableEq, Repr

/-- What a command delivers (R27): the fields it delivers, `none` for a field it does not deliver. -/
structure Results where
  o  : Option (List Elem) := none
  oh : Option (List Code) := none
  r  : Option Chk := none
  v  : Option (BitVec 5) := none
  deriving DecidableEq, Repr

/-- How a command ends (R10, R190): exactly one of the three outcomes. `fail` carries nothing (R192). -/
inductive Ending where
  | ok (res : Results)
  | fail
  | refuse (why : RefuseReason)
  deriving DecidableEq, Repr

/-- What the host does at the block's interface: issue a command with its inputs (R26, R51), or reset the block
(R220). -/
inductive HostAct where
  | command (cmd : Word) (h : List Code) (d : List Elem)
  | reset
  deriving DecidableEq, Repr

/-- Which units a command runs: U1's register `CHK` (R21), U2's registers `ACC` and `BITS` (R23, R24). -/
structure Units where
  u1 : Bool
  u2 : Bool
  deriving DecidableEq, Repr

/-- The whole state. -/
structure State where
  /-- `CMD`, the command word presented (R26). Host-owned: the block never writes it. -/
  cmd     : Word
  /-- `H`, the character sequence presented (R26, R40). Host-owned. -/
  h       : List Code
  /-- `D`, the element sequence presented (R26, R40). Host-owned. -/
  d       : List Elem
  /-- `STATUS` (R27, R31). -/
  status  : Status
  /-- `O`, the output data sequence (R27, R40). -/
  o       : List Elem
  /-- `OH`, the output character sequence (R27, R40). -/
  oh      : List Code
  /-- `R`, the final accumulator (R27). -/
  r       : Chk
  /-- `V`, the small scalar (R27). -/
  v       : BitVec 5
  /-- `CHK`, the checksum accumulator of U1 (R21). Every run seeds it first, so no command reads what stands here
  (R33, R220); between commands its value is unspecified (UB3, log 8). -/
  chk     : Chk
  /-- `ACC`, the bit buffer of U2 (R23); as `CHK`, written before read in every conversion (R221). -/
  acc     : Nat
  /-- `BITS`, the valid-bit count of U2 (R24); as `CHK`. -/
  bits    : Nat
  /-- The MODEL's own: what the host does next, oldest first (R51 (c); log 1). -/
  pending : List HostAct
  /-- The MODEL's own: how many free values have been used (log 7). -/
  freeIx  : Nat
  deriving DecidableEq, Repr

/-- Reasons the machine stops with a fault. THERE ARE NONE: the block has no exception and no stuck state a
command can reach (R190, R200, R227), and what a host does against its duty during a command (UB7) is no
transition of the model. Nobody raises a fault; safe (log 12). -/
inductive Fault where
  deriving DecidableEq, Repr

/-- Reasons the model has no meaning for an instruction. -/
inductive Refusal where
  /-- Raised by an arm of `exec` whose instruction has no meaning yet; no arm raises it now. Safe. -/
  | notModelled (mnemonic : String)
  deriving DecidableEq, Repr

/-- The machine right after reset (R33, R220): the block is idle; the spec leaves every value unspecified, and the
values here are the model's (DESIGN CHOICE, log 9). -/
def State.reset : State where
  cmd := 0
  h := []
  d := []
  status := .refused
  o := []
  oh := []
  r := 0
  v := 0
  chk := 0
  acc := 0
  bits := 0
  pending := []
  freeIx := 0

end Sys2Proof.Machine
end

