-- ==== Sys2Proof/Machine/Flags.lean ====
section
/-! DEFINITION. The one status value of the block (R31): `STATUS`, set once, at the end of every command. There are
no condition codes. -/

namespace Sys2Proof.Machine

/-- The `STATUS` an ending shows (R190). -/
def Ending.status : Ending → Status
  | .ok _ => .ok
  | .fail => .fail
  | .refuse _ => .refused

/-- What an ending delivers: `fail` and `refuse` carry no payload (R27, R192, R195). -/
def Ending.results : Ending → Results
  | .ok res => res
  | .fail => {}
  | .refuse _ => {}

/-- The status a free value in 0..2 stands for: any of the three (R220). -/
def statusOfFree (n : Fin 3) : Status :=
  if n = 0 then .ok else if n = 1 then .fail else .refused

end Sys2Proof.Machine
end

