-- ==== Sys2Proof/Config.lean ====
section
/-! DEFINITION. What one build of the block fixes and the spec leaves open (R6), and the free values: constants
with no body, so no proof can know what they are. -/

namespace Sys2Proof.Config

/-- By how much this build's `CONV_WMAX` exceeds 8 (0..55): open, R6, decision D14, log 4. -/
opaque convWmaxOver8 : Fin 56

/-- `CONV_WMAX`, the largest legal width of CONVERTBITS, `8 <= CONV_WMAX <= 63` (R6). -/
def convWmax : Nat := 8 + convWmaxOver8.val

/-- By how much this build's `ELEM_W` exceeds its lower bound: open, R6, decision D8, log 6. -/
opaque elemWOver : Nat

/-- `ELEM_W`, the width of a data element: at least 8 and at least `CONV_WMAX` (R6). -/
def elemW : Nat := convWmax + elemWOver

/-- By how much this build's `SEQ_MAX` exceeds 90, `none` for an unbounded one: open, R6, decision D9, log 5. -/
opaque seqMaxOver90 : Option Nat

/-- `SEQ_MAX`, the longest input or output sequence: at least 90, or `none` when unbounded (R6). -/
def seqMax : Option Nat := seqMaxOver90.map (90 + ·)

/-- Free values of the result field `O` (R27, UB2; log 7), one per use. -/
opaque freeO : Nat → List Elem
/-- Free values of the result field `OH` (R27, UB2; log 7). -/
opaque freeOH : Nat → List Code
/-- Free values of the result field `R` (R27, UB2; log 7). -/
opaque freeR : Nat → Chk
/-- Free values of the result field `V` (R27, UB2; log 7). -/
opaque freeV : Nat → BitVec 5
/-- Free values of the status after a reset, as a number 0..2 (R33, R220; log 13). -/
opaque freeStatus : Nat → Fin 3
/-- Free values of the register `CHK` after a command that runs it and after a reset (R33, UB3; log 8). -/
opaque freeChk : Nat → Chk
/-- Free values of the register `ACC` (R33, UB3; log 8). -/
opaque freeAcc : Nat → Nat
/-- Free values of the register `BITS` (R33, UB3; log 8). -/
opaque freeBits : Nat → Nat

end Sys2Proof.Config
end

