-- ==== Sys2Proof/Machine/Operands.lean ====
section
/-! DEFINITION. How the operands of a command are read (R41, R65) and the tests a command must pass before it is
executed: the refusals of R193, in the order of its table (R194). `illegal_command` is decided by the decoder. -/

namespace Sys2Proof.Machine

/-- Is a sequence of `n` elements within `SEQ_MAX` (R6)? The first disjunct repeats the bound `SEQ_MAX >= 90`, so that
lengths admitted in every build are seen to be admitted (`Laws.fitsSeq_iff` proves the plain form). -/
def fitsSeq (n : Nat) : Bool :=
  decide (n ≤ 90) ||
    match Config.seqMax with
    | none => true
    | some m => decide (n ≤ m)

/-- The symbol contract (R108, R223): every element is at most 31. -/
def areSymbols (d : List Elem) : Bool := d.all (fun e => decide (e ≤ 31))

/-- The elements of `D` as 5-bit symbols; meant for a `D` that meets the symbol contract. -/
def toSymbols (d : List Elem) : List Symbol := d.map (BitVec.ofNat 5)

/-- Symbols as elements of a sequence. -/
def ofSymbols (xs : List Symbol) : List Elem := xs.map BitVec.toNat

/-- Characters as elements of a sequence. -/
def ofCodes (cs : List Code) : List Elem := cs.map BitVec.toNat

/-- R64: `1 <= w <= CONV_WMAX`. The first disjunct repeats the lower bound `8 <= CONV_WMAX` of R6, so that the
widths legal in every build are seen to be legal without knowing this build's `CONV_WMAX`
(`Laws.legalWidth_iff` proves the two forms equal). -/
def legalWidth (w : Nat) : Bool :=
  decide (1 ≤ w) && (decide (w ≤ 8) || decide (w ≤ Config.convWmax))

/-- R64, R193 row 2. -/
def widthRefusal (fromBits toBits : Nat) : Option RefuseReason :=
  if legalWidth fromBits && legalWidth toBits then none else some .illegalWidth

/-- R108, R193 row 3. -/
def symbolRefusal (d : List Elem) : Option RefuseReason :=
  if areSymbols d then none else some .symbolOutOfRange

/-- R193 row 4: `lens` are the lengths of the inputs the command reads and of the output it would make. They are
known before the command is executed (R194; log 10). -/
def lengthRefusal (lens : List Nat) : Option RefuseReason :=
  if lens.all fitsSeq then none else some .tooLong

/-- R194: refusal is decided before execution, the first reason that holds in the order of R193. -/
def unlessRefused (why : List (Option RefuseReason)) (ending : Ending) : Ending :=
  match why with
  | [] => ending
  | some reason :: _ => .refuse reason
  | none :: rest => unlessRefused rest ending

/-- The length of the output a conversion makes of `n` values (R129). -/
def convertedLength (pad : Bool) (fromBits toBits n : Nat) : Nat :=
  if pad then (n * fromBits + (toBits - 1)) / toBits else n * fromBits / toBits

/-- The length of the string B32ENC makes of an HRP of `nh` characters and `nd` data symbols (R144). -/
def encodedLength (nh nd : Nat) : Nat := nh + 1 + nd + 6

end Sys2Proof.Machine
end

