-- ==== Sys2Proof/Machine/Ops.lean ====
section
/-! DEFINITION. The operations over the state that every command shares: presenting a command, ending it (what stands
in this block where a processor takes an exception, R190 to R196), and reset. -/

namespace Sys2Proof.Machine

/-- A sequence cut to `SEQ_MAX`, the longest an output sequence can be (R6). -/
def clipSeq {α : Type} (xs : List α) : List α :=
  match Config.seqMax with
  | none => xs
  | some m => xs.take m

/-- The free value of `O` number `k`: any sequence the output space can hold (R6, R40). -/
def freeO (k : Nat) : List Elem := clipSeq ((Config.freeO k).map (· % 2 ^ Config.elemW))
/-- The free value of `OH` number `k` (R6, R40). -/
def freeOH (k : Nat) : List Code := clipSeq (Config.freeOH k)
/-- The free value of `ACC` number `k`: any value of its width, `2*CONV_WMAX - 1` bits (R23). -/
def freeAcc (k : Nat) : Nat := Config.freeAcc k % 2 ^ (2 * Config.convWmax - 1)
/-- The free value of `BITS` number `k`: any count in its range `0 .. 2*CONV_WMAX - 1` (R24). -/
def freeBits (k : Nat) : Nat := Config.freeBits k % (2 * Config.convWmax)

/-- The host presents the command at the head of its list (R26, R51): `rest` is what it does afterwards. -/
def State.present (s : State) (cmd : Word) (h : List Code) (d : List Elem) (rest : List HostAct) : State :=
  { s with cmd := cmd, h := h, d := d, pending := rest }

/-- What a command that ran the units `u` leaves in their working registers: nothing specified (R33, UB3; log 8).
A register of a unit the command does not run keeps its value (R21, R23, R24 name who writes it). -/
def State.leaveUnits (s : State) (u : Units) : State :=
  { s with
    chk := if u.u1 then Config.freeChk s.freeIx else s.chk
    acc := if u.u2 then freeAcc s.freeIx else s.acc
    bits := if u.u2 then freeBits s.freeIx else s.bits }

/-- The end of a command: the whole result record is written at once (R48); a field that is not delivered has no
defined value (R27, R195, R225), so it is a free value. -/
def State.finish (s : State) (e : Ending) : State :=
  { s with
    status := e.status
    o := e.results.o.getD (freeO s.freeIx)
    oh := e.results.oh.getD (freeOH s.freeIx)
    r := e.results.r.getD (Config.freeR s.freeIx)
    v := e.results.v.getD (Config.freeV s.freeIx)
    freeIx := s.freeIx + 1 }

/-- One command as one atomic transition (R48): a refused command touches no working register (R193), an executed
one, `ok` or `fail`, leaves those of its units unspecified. -/
def State.complete (s : State) (u : Units) (e : Ending) : State :=
  match e with
  | .refuse why => s.finish (.refuse why)
  | .ok res => (s.leaveUnits u).finish (.ok res)
  | .fail => (s.leaveUnits u).finish .fail

/-- A word that is no command is refused (R63, R193): not executed, nothing delivered. -/
def State.refuseWord (s : State) (_why : DecodeError) : State := s.finish (.refuse .illegalCommand)

/-- The host resets the block between commands (R33, R220): every register and the result record are unspecified,
the host's inputs stand. -/
def State.resetBlock (s : State) (rest : List HostAct) : State :=
  { s with
    status := statusOfFree (Config.freeStatus s.freeIx)
    o := freeO s.freeIx
    oh := freeOH s.freeIx
    r := Config.freeR s.freeIx
    v := Config.freeV s.freeIx
    chk := Config.freeChk s.freeIx
    acc := freeAcc s.freeIx
    bits := freeBits s.freeIx
    pending := rest
    freeIx := s.freeIx + 1 }

end Sys2Proof.Machine
end

