-- ==== Sys2Proof/Machine/BitConverter.lean ====
section
/-! DEFINITION. Unit U2, `bech32_bit_converter` (41_bit_converter.md): its micro-operations CBSTART, CBCHECK, CBABSORB,
CBEMIT, CBFINISH, and the command CONVERTBITS. -/

namespace Sys2Proof.Machine

/-- A conversion in progress: the registers `ACC` and `BITS` (R23, R24) and the output so far. -/
structure Conv where
  acc  : Nat
  bits : Nat
  out  : List Elem
  deriving DecidableEq, Repr

/-- `mask(n) = 2^n - 1` (R8); `maxv = mask(tobits)`, `maxacc = mask(frombits + tobits - 1)` (R120). -/
def mask (n : Nat) : Nat := 2 ^ n - 1

/-- CBSTART (R121). -/
def cbStart : Conv := ⟨0, 0, []⟩

/-- CBCHECK (R122): does the value fit `frombits`? -/
def cbCheck (fromBits v : Nat) : Bool := v >>> fromBits == 0

/-- CBABSORB (R123). -/
def cbAbsorb (fromBits toBits v : Nat) (c : Conv) : Conv :=
  { c with acc := ((c.acc <<< fromBits) ||| v) &&& mask (fromBits + toBits - 1), bits := c.bits + fromBits }

/-- One turn of the emit loop (R124): the `tobits` oldest valid bits. -/
def emitOne (toBits : Nat) (c : Conv) : Conv :=
  { c with out := c.out ++ [(c.acc >>> (c.bits - toBits)) &&& mask toBits], bits := c.bits - toBits }

/-- The emit loop with a bound on its turns. -/
def emitLoop (toBits : Nat) : Nat → Conv → Conv
  | 0, c => c
  | fuel + 1, c => if toBits ≤ c.bits then emitLoop toBits fuel (emitOne toBits c) else c

/-- CBEMIT (R124). Each turn lowers `BITS` by `tobits >= 1`, so `BITS` turns are enough (R128 d). -/
def cbEmit (toBits : Nat) (c : Conv) : Conv := emitLoop toBits c.bits c

/-- One input value: CBCHECK, then CBABSORB, then CBEMIT (R127); `none` is `fail`. -/
def cbValue (fromBits toBits v : Nat) (c : Conv) : Option Conv :=
  if cbCheck fromBits v then some (cbEmit toBits (cbAbsorb fromBits toBits v c)) else none

/-- The loop of R127 over the input values. -/
def cbValues (fromBits toBits : Nat) : List Elem → Conv → Option Conv
  | [], c => some c
  | v :: vs, c =>
    match cbValue fromBits toBits v c with
    | some c' => cbValues fromBits toBits vs c'
    | none => none

/-- The `BITS` leftover bits at the top of a `tobits`-wide value (R125, R126). -/
def leftover (toBits : Nat) (c : Conv) : Nat := (c.acc <<< (toBits - c.bits)) &&& mask toBits

/-- CBFINISH with `pad` true (R125): zeros are appended at the low end. -/
def cbFinishPad (toBits : Nat) (c : Conv) : List Elem :=
  if c.bits > 0 then c.out ++ [leftover toBits c] else c.out

/-- CBFINISH with `pad` false (R126): too many leftover bits, or a leftover bit set, is `fail`. -/
def cbFinishStrict (fromBits toBits : Nat) (c : Conv) : Option (List Elem) :=
  if fromBits ≤ c.bits then none else if leftover toBits c ≠ 0 then none else some c.out

/-- CBFINISH (R125, R126). -/
def cbFinish (pad : Bool) (fromBits toBits : Nat) (c : Conv) : Option (List Elem) :=
  if pad then some (cbFinishPad toBits c) else cbFinishStrict fromBits toBits c

/-- `convertbits(data, frombits, tobits, pad)` (R127); `none` is `fail`. -/
def convertbits (data : List Elem) (fromBits toBits : Nat) (pad : Bool) : Option (List Elem) :=
  match cbValues fromBits toBits data cbStart with
  | some c => cbFinish pad fromBits toBits c
  | none => none

/-- CONVERTBITS as a command (R64, R127): how it ends, from its fields and inputs alone. -/
def convertbitsCommand (pad : Bool) (fromBits toBits : Nat) (d : List Elem) : Ending :=
  unlessRefused
    [widthRefusal fromBits toBits, lengthRefusal [d.length, convertedLength pad fromBits toBits d.length]]
    (match convertbits d fromBits toBits pad with
     | some out => .ok { o := some out }
     | none => .fail)

/-- The meaning of CONVERTBITS: it runs `ACC` and `BITS` (R23). -/
def execConvertbits (pad : Bool) (fromBits toBits : BitVec 6) (s : State) : Host.Outcome State Fault Refusal :=
  .next (s.complete ⟨false, true⟩ (convertbitsCommand pad fromBits.toNat toBits.toNat s.d))

end Sys2Proof.Machine
end

