-- ==== Sys2Proof/Machine/Checksum.lean ====
section
/-! DEFINITION. Unit U1, `bech32_checksum_polymod` (40_checksum_polymod.md): PMSTEP, and the commands POLYMOD, EXPAND,
VERIFY, CREATE. Inside other commands the same functions stand for the sub-operations (R10, R11). -/

namespace Sys2Proof.Machine

/-- The five tap constants in the spec's order (R100, R5). -/
def gen : List Chk := [0x3b6a57b2#30, 0x26508e6d#30, 0x1ea119fa#30, 0x3d4233dd#30, 0x2a1462b3#30]

/-- `SEED`: the accumulator before the first symbol (R5, R103). -/
def seed : Chk := 1#30

/-- `RESIDUE`: what a valid string leaves in the accumulator (R5, R105). -/
def residue : Chk := 1#30

/-- One tap: `GEN[k]` XORed in when bit `k` of `TOP` is 1 (R101, decision D10). -/
def applyTap (top : BitVec 5) (chk : Chk) (k : Nat) : Chk :=
  if top.getLsbD k then chk ^^^ gen.getD k 0 else chk

/-- PMSTEP (R101): `TOP` is taken before the update (R22), the low 25 bits move up by 5, the symbol comes in, the
taps follow. -/
def pmStep (chk : Chk) (v : Symbol) : Chk :=
  let top : BitVec 5 := chk.extractLsb' 25 5
  [0, 1, 2, 3, 4].foldl (applyTap top) (((chk &&& 0x1ffffff#30) <<< 5) ^^^ v.zeroExtend 30)

/-- A polymod run (R103): `CHK <- 1`, then one PMSTEP a symbol; the final accumulator. -/
def polymod (values : List Symbol) : Chk := values.foldl pmStep seed

/-- `high5(c) = c >> 5` (R104). -/
def high5 (c : Code) : Symbol := (c >>> 5).truncate 5

/-- `low5(c) = c & 31` (R104). -/
def low5 (c : Code) : Symbol := (c &&& 31#8).truncate 5

/-- The expanded HRP (R72, R104). -/
def expand (hrp : List Code) : List Symbol := hrp.map high5 ++ [0#5] ++ hrp.map low5

/-- `verify(hrp, data)` (R105). -/
def verify (hrp : List Code) (data : List Symbol) : Bool := polymod (expand hrp ++ data) == residue

/-- The six checksum symbols of a 30-bit value, the most significant first (R44, R73). -/
def checksumSymbols (poly : Chk) : List Symbol :=
  [0, 1, 2, 3, 4, 5].map fun i => (poly >>> (5 * (5 - i))).truncate 5

/-- `create(hrp, data)` (R106). -/
def create (hrp : List Code) (data : List Symbol) : List Symbol :=
  checksumSymbols (polymod (expand hrp ++ data ++ List.replicate 6 0#5) ^^^ residue)

/-- EXPAND as a command: how it ends, from its inputs alone (R20, R104). -/
def expandCommand (h : List Code) : Ending :=
  unlessRefused [lengthRefusal [h.length, 2 * h.length + 1]] (.ok { o := some (ofSymbols (expand h)) })

/-- POLYMOD as a command (R103, R108). -/
def polymodCommand (d : List Elem) : Ending :=
  unlessRefused [symbolRefusal d, lengthRefusal [d.length]] (.ok { r := some (polymod (toSymbols d)) })

/-- VERIFY as a command (R105, R108): a false verification is `ok` with `V = 0`. -/
def verifyCommand (h : List Code) (d : List Elem) : Ending :=
  unlessRefused [symbolRefusal d, lengthRefusal [h.length, d.length]]
    (.ok { v := some (if verify h (toSymbols d) then 1#5 else 0#5) })

/-- CREATE as a command (R106, R108). -/
def createCommand (h : List Code) (d : List Elem) : Ending :=
  unlessRefused [symbolRefusal d, lengthRefusal [h.length, d.length, 6]]
    (.ok { o := some (ofSymbols (create h (toSymbols d))) })

/-- The meaning of EXPAND: it runs no working register (R21). -/
def execExpand (s : State) : Host.Outcome State Fault Refusal :=
  .next (s.complete ⟨false, false⟩ (expandCommand s.h))

/-- The meaning of POLYMOD: it runs `CHK` (R21). -/
def execPolymod (s : State) : Host.Outcome State Fault Refusal :=
  .next (s.complete ⟨true, false⟩ (polymodCommand s.d))

/-- The meaning of VERIFY: it runs `CHK` (R21). -/
def execVerify (s : State) : Host.Outcome State Fault Refusal :=
  .next (s.complete ⟨true, false⟩ (verifyCommand s.h s.d))

/-- The meaning of CREATE: it runs `CHK` (R21). -/
def execCreate (s : State) : Host.Outcome State Fault Refusal :=
  .next (s.complete ⟨true, false⟩ (createCommand s.h s.d))

end Sys2Proof.Machine
end

