-- ==== Sys2Proof/Machine/Codec.lean ====
section
/-! DEFINITION. Unit U3, `bech32_codec` (42_bech32_codec.md): the character mappers, and the commands B32ENC and
B32DEC. -/

namespace Sys2Proof.Machine

/-- `ALPHABET` (R5, R67), the codes of `qpzry9x8gf2tvdw0s3jn54khce6mua7l` in order. -/
def alphabet : List Elem :=
  [0x71, 0x70, 0x7a, 0x72, 0x79, 0x39, 0x78, 0x38, 0x67, 0x66, 0x32, 0x74, 0x76, 0x64, 0x77, 0x30] ++
  [0x73, 0x33, 0x6a, 0x6e, 0x35, 0x34, 0x6b, 0x68, 0x63, 0x65, 0x36, 0x6d, 0x75, 0x61, 0x37, 0x6c]

/-- `SEP`, the character `1` (R5, R69). -/
def separator : Elem := 0x31

/-- CHARMAP (R140). -/
def charmap (x : Symbol) : Elem := alphabet.getD x.toNat 0

/-- CHARUNMAP (R141): `none` for a character outside the alphabet. -/
def charunmap (c : Elem) : Option Symbol := (alphabet.findIdx? (· == c)).map (BitVec.ofNat 5)

/-- R142. -/
def isLower (c : Elem) : Bool := decide (0x61 ≤ c) && decide (c ≤ 0x7a)
/-- R142. -/
def isUpper (c : Elem) : Bool := decide (0x41 ≤ c) && decide (c ≤ 0x5a)
/-- LOWER (R142). -/
def lower (c : Elem) : Elem := if isUpper c then c + 0x20 else c

/-- `encode(hrp, data)` (R144). -/
def b32enc (hrp : List Code) (data : List Symbol) : List Elem :=
  ofCodes hrp ++ [separator] ++ (data ++ create hrp data).map charmap

/-- B32ENC as a command (R144, R108): it validates nothing but the symbol contract. -/
def b32encCommand (h : List Code) (d : List Elem) : Ending :=
  unlessRefused [symbolRefusal d, lengthRefusal [h.length, d.length, encodedLength h.length d.length]]
    (.ok { o := some (b32enc h (toSymbols d)) })

/-- Range test (R145): every character is in 33..126. -/
def inRange (s : List Elem) : Bool := s.all fun c => decide (33 ≤ c) && decide (c ≤ 126)

/-- Case test (R146): letters of both kinds. -/
def mixedCase (s : List Elem) : Bool := s.any isLower && s.any isUpper

/-- Separator search (R148): the largest index that holds the separator. -/
def lastSeparator : List Elem → Option Nat
  | [] => none
  | c :: cs =>
    match lastSeparator cs with
    | some i => some (i + 1)
    | none => if c = separator then some 0 else none

/-- Alphabet test and mapping (R151, R152): `none` when a character is outside the alphabet. -/
def charunmapAll : List Elem → Option (List Symbol)
  | [] => some []
  | c :: cs =>
    match charunmap c, charunmapAll cs with
    | some x, some xs => some (x :: xs)
    | _, _ => none

/-- The tests after the separator is found at `pos` in the lowercased string `s` (R149 to R154). -/
def decodeAt (s : List Elem) (pos : Nat) : Option (List Code × List Symbol) :=
  if pos < 1 then none
  else if pos > 83 then none
  else if s.length - pos - 1 < 6 then none
  else
    match charunmapAll (s.drop (pos + 1)) with
    | none => none
    | some data =>
      let hrp : List Code := (s.take pos).map (BitVec.ofNat 8)
      if verify hrp data then some (hrp, data.take (data.length - 6)) else none

/-- `decode(bech)` (R155): the HRP in lowercase and the data symbols without the checksum; `none` is `fail`. -/
def b32dec (string : List Elem) : Option (List Code × List Symbol) :=
  if inRange string then
    if mixedCase string then none
    else
      let s := string.map lower
      match lastSeparator s with
      | none => none
      | some pos => decodeAt s pos
  else none

/-- B32DEC as a command (R155): no contract on the content of `D`. -/
def b32decCommand (d : List Elem) : Ending :=
  unlessRefused [lengthRefusal [d.length]]
    (match b32dec d with
     | some (hrp, data) => .ok { oh := some hrp, o := some (ofSymbols data) }
     | none => .fail)

/-- The meaning of B32ENC: it runs `CHK` (R21). -/
def execB32enc (s : State) : Host.Outcome State Fault Refusal :=
  .next (s.complete ⟨true, false⟩ (b32encCommand s.h s.d))

/-- The meaning of B32DEC: it runs `CHK` (R21). -/
def execB32dec (s : State) : Host.Outcome State Fault Refusal :=
  .next (s.complete ⟨true, false⟩ (b32decCommand s.d))

end Sys2Proof.Machine
end

