-- ==== Sys2Proof/Machine/WitnessAddr.lean ====
section
/-! DEFINITION. Unit U4, `witness_addr_codec` (43_witness_addr_codec.md): the commands WDEC and WENC. -/

namespace Sys2Proof.Machine

/-- Program length test (R174): `PROG_MIN = 2`, `PROG_MAX = 40`. -/
def programLengthOk (n : Nat) : Bool := decide (2 ≤ n) && decide (n ≤ 40)

/-- Version test (R175): `WITVER_MAX = 16`, and 20 or 32 bytes for version 0. -/
def versionOk (ver : Symbol) (n : Nat) : Bool :=
  decide (ver.toNat ≤ 16) && (ver != 0#5 || n == 20 || n == 32)

/-- The tests after the string and the HRP are accepted (R173 to R175), on the data symbols. -/
def witnessOf (data : List Symbol) : Option (Symbol × List Elem) :=
  match data with
  | [] => none
  | ver :: syms =>
    match convertbits (ofSymbols syms) 5 8 false with
    | none => none
    | some prog => if programLengthOk prog.length && versionOk ver prog.length then some (ver, prog) else none

/-- `decode(hrp, addr)` (R170); `none` is `fail`. The expected HRP is compared as it is (R172, decision D20). -/
def wdec (hrp : List Code) (addr : List Elem) : Option (Symbol × List Elem) :=
  match b32dec addr with
  | none => none
  | some (hrpgot, data) => if hrpgot = hrp then witnessOf data else none

/-- `encode(hrp, witver, witprog)` with its self-check (R176, R177); `none` is `fail`. -/
def wenc (hrp : List Code) (witVer : Symbol) (witprog : List Elem) : Option (List Elem) :=
  match convertbits witprog 8 5 true with
  | none => none
  | some syms =>
    let s := b32enc hrp (witVer :: toSymbols syms)
    match wdec hrp s with
    | none => none
    | some _ => some s

/-- WDEC as a command (R170). -/
def wdecCommand (h : List Code) (d : List Elem) : Ending :=
  unlessRefused [lengthRefusal [h.length, d.length]]
    (match wdec h d with
     | some (ver, prog) => .ok { v := some ver, o := some prog }
     | none => .fail)

/-- WENC as a command (R176): the output it would make is the string of R178. -/
def wencCommand (witVer : Symbol) (h : List Code) (d : List Elem) : Ending :=
  unlessRefused
    [lengthRefusal [h.length, d.length, encodedLength h.length (1 + convertedLength true 8 5 d.length)]]
    (match wenc h witVer d with
     | some s => .ok { o := some s }
     | none => .fail)

/-- The meaning of WENC: it runs `CHK`, `ACC` and `BITS` (R21, R23). -/
def execWenc (witVer : Symbol) (s : State) : Host.Outcome State Fault Refusal :=
  .next (s.complete ⟨true, true⟩ (wencCommand witVer s.h s.d))

/-- The meaning of WDEC: it runs `CHK`, `ACC` and `BITS` (R21, R23). -/
def execWdec (s : State) : Host.Outcome State Fault Refusal :=
  .next (s.complete ⟨true, true⟩ (wdecCommand s.h s.d))

end Sys2Proof.Machine
end

