-- ==== Sys2Proof/Machine/Dispatch.lean ====
section
/-! DEFINITION. One arm per command: its meaning. -/

namespace Sys2Proof.Machine

def exec (i : Instr) (s : State) : Host.Outcome State Fault Refusal :=
  match i with
  | .expand => Sys2Proof.Machine.execExpand s
  | .polymod => Sys2Proof.Machine.execPolymod s
  | .verify => Sys2Proof.Machine.execVerify s
  | .create => Sys2Proof.Machine.execCreate s
  | .convertbits pad fromBits toBits => Sys2Proof.Machine.execConvertbits pad fromBits toBits s
  | .b32enc => Sys2Proof.Machine.execB32enc s
  | .b32dec => Sys2Proof.Machine.execB32dec s
  | .wenc witVer => Sys2Proof.Machine.execWenc witVer s
  | .wdec => Sys2Proof.Machine.execWdec s

end Sys2Proof.Machine
end

