-- ==== Sys2Proof/Machine/Step.lean ====
section
/-! DEFINITION. One step of the machine: the host's next act at the block (R51). -/

namespace Sys2Proof.Machine

/-- One step (R48, R51 (c)): nothing to do leaves the block idle (log 1); a command is presented, decoded and
executed whole; a word that is no command is refused; a reset resets. -/
def step (s : State) : Host.Outcome State Fault Refusal :=
  match s.pending with
  | [] => .next s
  | .reset :: rest => .next (s.resetBlock rest)
  | .command cmd h d :: rest =>
    match decode cmd with
    | .ok i => exec i (s.present cmd h d rest)
    | .error why => .next ((s.present cmd h d rest).refuseWord why)

/-- The command word `w` (its `nbits` bits) as the very next command the host issues, with the `H` and `D` now
presented (log 1): the block has no program counter and fetches nothing (R29, R54). -/
def State.withFetchWord (s : State) (nbits w : Nat) : State :=
  { s with pending := .command (BitVec.ofNat 32 (w % 2 ^ nbits)) s.h s.d :: s.pending }

end Sys2Proof.Machine
end

