-- ==== Sys2Proof/Machine/Assembler.lean ====
section
/-! DEFINITION. The assembler form of a command (30_encoding.md R66): a mnemonic with its operands in the document's order.
Every line is one command word plus its sequences. -/

namespace Sys2Proof.Machine

/-- A line of R66. -/
inductive AsmLine where
  /-- `EXPAND H` -/
  | expand (h : List Code)
  /-- `POLYMOD D` -/
  | polymod (d : List Elem)
  /-- `VERIFY H, D` -/
  | verify (h : List Code) (d : List Elem)
  /-- `CREATE H, D` -/
  | create (h : List Code) (d : List Elem)
  /-- `CONVERTBITS D, frombits, tobits, pad` -/
  | convertbits (d : List Elem) (fromBits toBits : BitVec 6) (pad : Bool)
  /-- `B32ENC H, D` -/
  | b32enc (h : List Code) (d : List Elem)
  /-- `B32DEC D` -/
  | b32dec (d : List Elem)
  /-- `WENC H, witver, D` -/
  | wenc (h : List Code) (witVer : Symbol) (d : List Elem)
  /-- `WDEC H, D` -/
  | wdec (h : List Code) (d : List Elem)
  deriving DecidableEq, Repr

/-- The command of a line. -/
def AsmLine.instr : AsmLine → Instr
  | .expand _ => .expand
  | .polymod _ => .polymod
  | .verify _ _ => .verify
  | .create _ _ => .create
  | .convertbits _ fromBits toBits pad => .convertbits pad fromBits toBits
  | .b32enc _ _ => .b32enc
  | .b32dec _ => .b32dec
  | .wenc _ witVer _ => .wenc witVer
  | .wdec _ _ => .wdec

/-- The sequence `H` of a line; empty for a command that does not read it (R41: its content is ignored). -/
def AsmLine.seqH : AsmLine → List Code
  | .expand h => h
  | .polymod _ => []
  | .verify h _ => h
  | .create h _ => h
  | .convertbits _ _ _ _ => []
  | .b32enc h _ => h
  | .b32dec _ => []
  | .wenc h _ _ => h
  | .wdec h _ => h

/-- The sequence `D` of a line; empty for a command that does not read it (R41). -/
def AsmLine.seqD : AsmLine → List Elem
  | .expand _ => []
  | .polymod d => d
  | .verify _ d => d
  | .create _ d => d
  | .convertbits d _ _ _ => d
  | .b32enc _ d => d
  | .b32dec d => d
  | .wenc _ _ d => d
  | .wdec _ d => d

/-- What the host does for a line: it issues the command word with the sequences (R66). -/
def AsmLine.act (line : AsmLine) : HostAct := .command (encode line.instr) line.seqH line.seqD

/-- A program: its lines issued one after another (R51 c). -/
def assemble (program : List AsmLine) : List HostAct := program.map AsmLine.act

end Sys2Proof.Machine
end

