-- ==== Sys2Proof/Safety.lean ====
section
/-! DEFINITION. What counts as a sound state of the block, in the terms the statements use: every register and every
sequence within the width the spec gives it. -/

namespace Sys2Proof.Machine

/-- Every element of a data sequence is below `2^ELEM_W` (R40). -/
def elemsFit (xs : List Elem) : Prop := ∀ e ∈ xs, e < 2 ^ Config.elemW

/-- What the host presents in one act fits the element width (R40). -/
def HostAct.fits : HostAct → Prop
  | .command _ _ d => elemsFit d
  | .reset => True

/-- The widths of the machine (R6, R23, R24, R27, R40): the registers whose type is wider than the spec's, and the
sequences. -/
structure State.Sound (s : State) : Prop where
  /-- `ACC` has at most `2*CONV_WMAX - 1` bits (R23). -/
  acc_width : s.acc < 2 ^ (2 * Config.convWmax - 1)
  /-- `BITS` is below `2*CONV_WMAX` (R24). -/
  bits_range : s.bits < 2 * Config.convWmax
  /-- The elements of `O` fit `ELEM_W` (R27). -/
  o_elems : elemsFit s.o
  /-- `O` is no longer than `SEQ_MAX` (R6). -/
  o_length : fitsSeq s.o.length = true
  /-- `OH` is no longer than `SEQ_MAX` (R6). -/
  oh_length : fitsSeq s.oh.length = true
  /-- The elements of `D` fit `ELEM_W` (R40). -/
  d_elems : elemsFit s.d
  /-- So do those of every command still to come. -/
  pending_elems : ∀ a ∈ s.pending, a.fits

end Sys2Proof.Machine
end

