-- ==== Sys2Proof/Certificates/Slice0/Reference.lean ====
section
/-! DEFINITION. The words the statements are written in: the spec's pseudocode and prose over plain natural numbers
(R7, R12), written apart from the machine's own functions, and the frame predicates. -/

namespace Sys2Proof.Ref

open Sys2Proof.Machine

/-- The pseudocode of R101, line by line, over natural numbers. -/
def pmstep (chk v : Nat) : Nat :=
  let top := chk >>> 25
  let c := ((chk &&& 0x1ffffff) <<< 5) ^^^ v
  let c := if (top >>> 0) &&& 1 = 1 then c ^^^ 0x3b6a57b2 else c
  let c := if (top >>> 1) &&& 1 = 1 then c ^^^ 0x26508e6d else c
  let c := if (top >>> 2) &&& 1 = 1 then c ^^^ 0x1ea119fa else c
  let c := if (top >>> 3) &&& 1 = 1 then c ^^^ 0x3d4233dd else c
  if (top >>> 4) &&& 1 = 1 then c ^^^ 0x2a1462b3 else c

/-- R103: seeded with 1, one step a value. -/
def polymod (values : List Nat) : Nat := values.foldl pmstep 1

/-- R104, R72. -/
def expand (hrp : List Nat) : List Nat := hrp.map (· >>> 5) ++ [0] ++ hrp.map (· &&& 31)

/-- R106, R73: `poly[29:25]`, `poly[24:20]`, ..., `poly[4:0]`. -/
def create (hrp data : List Nat) : List Nat :=
  let poly := polymod (expand hrp ++ data ++ [0, 0, 0, 0, 0, 0]) ^^^ 1
  [(poly >>> 25) &&& 31, (poly >>> 20) &&& 31, (poly >>> 15) &&& 31, (poly >>> 10) &&& 31, (poly >>> 5) &&& 31,
    poly &&& 31]

/-- A value in `w` binary digits, most significant first (R43). -/
def digits (w v : Nat) : List Bool := (List.range w).map fun i => v.testBit (w - 1 - i)

/-- The bit stream of R129: each value in `w` digits, in sequence order. -/
def stream (w : Nat) (values : List Nat) : List Bool := values.flatMap (digits w)

/-- Digits read as a binary number, most significant first. -/
def number (bits : List Bool) : Nat := bits.foldl (fun n b => 2 * n + b.toNat) 0

/-- The first `q` groups of `t` digits, each as a number (R129). -/
def groups (t q : Nat) (bits : List Bool) : List Nat :=
  (List.range q).map fun i => number ((bits.drop (i * t)).take t)

/-- The conversion as R122 and R129 state it, on the bit stream; `none` is `fail`. -/
def conversion (data : List Nat) (f t : Nat) (pad : Bool) : Option (List Nat) :=
  let bits := stream f data
  let q := data.length * f / t
  let r := data.length * f % t
  let rest := bits.drop (q * t)
  if data.any (fun v => decide (2 ^ f ≤ v)) then none
  else if pad then
    some (groups t q bits ++ if 0 < r then [number (rest ++ List.replicate (t - r) false)] else [])
  else if f ≤ r ∨ rest.any id then none
  else some (groups t q bits)

/-- The alphabet as the spec spells it (R67), as codes. -/
def alphabet : List Nat := "qpzry9x8gf2tvdw0s3jn54khce6mua7l".toList.map Char.toNat

/-- The character of a symbol (R67, R140). -/
def charOf (x : Nat) : Nat := alphabet.getD x 0

/-- The inverse alphabet as R68 lists it, by code. -/
def inverseAlphabet : List (Nat × Symbol) :=
  [(0x30, 15), (0x32, 10), (0x33, 17), (0x34, 21), (0x35, 20), (0x36, 26), (0x37, 30), (0x38, 7), (0x39, 5), (0x61, 29),
    (0x63, 24), (0x64, 13), (0x65, 25), (0x66, 9), (0x67, 8), (0x68, 23)] ++
  [(0x6a, 18), (0x6b, 22), (0x6c, 31), (0x6d, 27), (0x6e, 19), (0x70, 1), (0x71, 0), (0x72, 3), (0x73, 16), (0x74, 11),
    (0x75, 28), (0x76, 12), (0x77, 14), (0x78, 6), (0x79, 4), (0x7a, 2)]

/-- An uppercase letter (R71). -/
def Upper (c : Nat) : Prop := 0x41 ≤ c ∧ c ≤ 0x5a
/-- A lowercase letter (R71). -/
def Lower (c : Nat) : Prop := 0x61 ≤ c ∧ c ≤ 0x7a
/-- The lowercase form (R71). -/
def toLower (c : Nat) : Nat := if 0x41 ≤ c ∧ c ≤ 0x5a then c + 0x20 else c
/-- The uppercase form: the inverse of R71 on letters. -/
def toUpper (c : Nat) : Nat := if 0x61 ≤ c ∧ c ≤ 0x7a then c - 0x20 else c

/-- The string B32ENC makes (R144). -/
def encoded (hrp data : List Nat) : List Nat := hrp ++ [0x31] ++ (data ++ create hrp data).map charOf

/-- The string `str` is written by the grammar of R70 and stands for the lowercase HRP `hrp` and the data symbols
`data`: every character in 33..126; not both cases; an HRP of 1 to 83 characters, the separator, the data characters
and six checksum characters once lowercased; the checksum verifies. -/
def StringDenotes (str : List Elem) (hrp : List Code) (data : List Symbol) : Prop :=
  (∀ c ∈ str, 33 ≤ c ∧ c ≤ 126) ∧ ¬ ((∃ c ∈ str, Lower c) ∧ ∃ c ∈ str, Upper c) ∧
  1 ≤ hrp.length ∧ hrp.length ≤ 83 ∧
  ∃ checksum : List Symbol, checksum.length = 6 ∧
    str.map toLower = ofCodes hrp ++ [0x31] ++ (ofSymbols (data ++ checksum)).map charOf ∧
    polymod (expand (ofCodes hrp) ++ ofSymbols (data ++ checksum)) = 1

/-- R174, R175: the lengths and versions allowed. -/
def ProgramOk (ver : Symbol) (n : Nat) : Prop :=
  2 ≤ n ∧ n ≤ 40 ∧ ver.toNat ≤ 16 ∧ (ver = 0 → n = 20 ∨ n = 32)

/-- The address `addr` stands for the version `ver` and the program `prog` under the HRP `hrp` (R170 to R175). -/
def AddressDenotes (hrp : List Code) (addr : List Elem) (ver : Symbol) (prog : List Elem) : Prop :=
  ∃ syms : List Symbol, StringDenotes addr hrp (ver :: syms) ∧ conversion (ofSymbols syms) 5 8 false = some prog ∧
    ProgramOk ver prog.length

/-- R178 (b), (c), (d): an HRP of 1 to 83 characters, each in 33..126, none uppercase. -/
def HrpOk (h : List Code) : Prop :=
  1 ≤ h.length ∧ h.length ≤ 83 ∧ ∀ c ∈ h, 33 ≤ c.toNat ∧ c.toNat ≤ 126 ∧ ¬ Upper c.toNat

/-- R178 (a) to (g). -/
def WitnessOk (h : List Code) (ver : Symbol) (d : List Elem) : Prop :=
  (∀ e ∈ d, e ≤ 255) ∧ HrpOk h ∧ ProgramOk ver d.length

/-- `pos` is the index of the last separator of `str` (R148). -/
def LastSeparatorAt (str : List Elem) (pos : Nat) : Prop :=
  str[pos]? = some 0x31 ∧ ∀ j, pos < j → str[j]? ≠ some 0x31

/-- Bits `lo + width - 1 .. lo` of a command word as a number (R60, R7). -/
def field (w : Word) (lo width : Nat) : Nat := w.toNat / 2 ^ lo % 2 ^ width

/-- R63 less its last case: reserved `OP`, reserved field, unused field. -/
def IllegalCommand (w : Word) : Prop :=
  field w 0 4 = 0 ∨ 10 ≤ field w 0 4 ∨
  field w 5 3 ≠ 0 ∨ field w 14 2 ≠ 0 ∨ field w 22 2 ≠ 0 ∨ field w 29 3 ≠ 0 ∨
  (field w 0 4 ≠ 5 ∧ (field w 4 1 ≠ 0 ∨ field w 8 6 ≠ 0 ∨ field w 16 6 ≠ 0)) ∨
  (field w 0 4 ≠ 8 ∧ field w 24 5 ≠ 0)

/-- R64 broken: a CONVERTBITS word with a width outside `1 .. CONV_WMAX`. -/
def IllegalWidth (w : Word) : Prop :=
  field w 0 4 = 5 ∧
  ¬ (1 ≤ field w 8 6 ∧ field w 8 6 ≤ Config.convWmax ∧ 1 ≤ field w 16 6 ∧ field w 16 6 ≤ Config.convWmax)

/-- R193 row 3: POLYMOD, VERIFY, CREATE, B32ENC with an element above 31. -/
def SymbolBroken (w : Word) (d : List Elem) : Prop :=
  field w 0 4 ∈ [2, 3, 4, 6] ∧ ∃ e ∈ d, 31 < e

/-- The length of the output a command would make (R104, R106, R129, R144, R178); 0 for a command whose output is
never longer than its inputs. -/
def outputLength (w : Word) (nh nd : Nat) : Nat :=
  if field w 0 4 = 1 then 2 * nh + 1
  else if field w 0 4 = 4 then 6
  else if field w 0 4 = 5 then
    if field w 4 1 = 1 then (nd * field w 8 6 + (field w 16 6 - 1)) / field w 16 6
    else nd * field w 8 6 / field w 16 6
  else if field w 0 4 = 6 then nh + 1 + nd + 6
  else if field w 0 4 = 8 then nh + 1 + (1 + (8 * nd + 4) / 5) + 6
  else 0

/-- R193 row 4 (with log 10): a sequence the command reads (R41), or its output, longer than `SEQ_MAX`. -/
def TooLong (w : Word) (h : List Code) (d : List Elem) : Prop :=
  ∃ m, Config.seqMax = some m ∧
    ((field w 0 4 ∈ [1, 3, 4, 6, 8, 9] ∧ m < h.length) ∨ (field w 0 4 ∈ [2, 3, 4, 5, 6, 7, 8, 9] ∧ m < d.length) ∨
      m < outputLength w h.length d.length)

/-- R27: which commands deliver `O`. -/
def deliversO : Instr → Bool
  | .expand | .create | .convertbits _ _ _ | .b32enc | .b32dec | .wenc _ | .wdec => true
  | .polymod | .verify => false
/-- R27: which commands deliver `OH`. -/
def deliversOH : Instr → Bool
  | .b32dec => true
  | .expand | .create | .convertbits _ _ _ | .b32enc | .wenc _ | .wdec | .polymod | .verify => false
/-- R27: which commands deliver `R`. -/
def deliversR : Instr → Bool
  | .polymod => true
  | .expand | .create | .convertbits _ _ _ | .b32enc | .b32dec | .wenc _ | .wdec | .verify => false
/-- R27: which commands deliver `V`. -/
def deliversV : Instr → Bool
  | .verify | .wdec => true
  | .expand | .create | .convertbits _ _ _ | .b32enc | .b32dec | .wenc _ | .polymod => false

/-- R21: the commands that run `CHK`. -/
def runsChk : Instr → Bool
  | .polymod | .verify | .create | .b32enc | .b32dec | .wenc _ | .wdec => true
  | .expand | .convertbits _ _ _ => false
/-- R23, R24: the commands that run `ACC` and `BITS`. -/
def runsAcc : Instr → Bool
  | .convertbits _ _ _ | .wenc _ | .wdec => true
  | .expand | .polymod | .verify | .create | .b32enc | .b32dec => false

/-- The host's inputs and what it does next are as before (R26, R48). -/
def KeepsInputs (s t : State) : Prop := t.cmd = s.cmd ∧ t.h = s.h ∧ t.d = s.d ∧ t.pending = s.pending

/-- Every working register is as before. -/
def KeepsRegisters (s t : State) : Prop := t.chk = s.chk ∧ t.acc = s.acc ∧ t.bits = s.bits

/-- No field of the result record is delivered: each holds its free value (R27, R195; the form of the free value is the
model's, log 7). -/
def DeliversNothing (s t : State) : Prop :=
  t.o = freeO s.freeIx ∧ t.oh = freeOH s.freeIx ∧ t.r = Config.freeR s.freeIx ∧ t.v = Config.freeV s.freeIx

/-- The answer of a refused command (R193): not executed, no working register touched. -/
def Refuses (i : Instr) (s : State) : Prop :=
  ∃ t, exec i s = .next t ∧ t.status = .refused ∧ KeepsInputs s t ∧ KeepsRegisters s t

/-- The step at `s` runs `i`, issued as the word `w` with the sequences `h` and `d`, and leaves `rest` to do (R26, R51). -/
def RunsAs (s : State) (rest : List HostAct) (w : Word) (i : Instr) (h : List Code) (d : List Elem) : Prop :=
  decode w = .ok i ∧ step s = exec i { s with cmd := w, h := h, d := d, pending := rest }

end Sys2Proof.Ref
end

