-- ==== Sys2Proof/WellFormed.lean ====
section
/-! DEFINITION. When a command is legal as a command (R63, R64). The field widths are in the types of Instr; what
is left to check is the two widths of CONVERTBITS. -/

namespace Sys2Proof

/-- A legal command: every command but a CONVERTBITS that breaks R64. -/
def Instr.wellFormed : Instr → Bool
  | .convertbits _ fromBits toBits => Machine.legalWidth fromBits.toNat && Machine.legalWidth toBits.toNat
  | .expand => true
  | .polymod => true
  | .verify => true
  | .create => true
  | .b32enc => true
  | .b32dec => true
  | .wenc _ => true
  | .wdec => true

end Sys2Proof
end

