-- ==== Sys2Proof/Certificates/Slice0/Obligations.lean ====
section
/-! DEFINITION. The statements for the provers. -/

open Sys2Proof Sys2Proof.Machine

/-! ## The command word -/

/-- R61, R62: the exact words and the examples of R62. -/
def Obligations.SpecWordsDecode : Prop :=
  decode 0x00000001#32 = .ok .expand ∧ decode 0x00000002#32 = .ok .polymod ∧ decode 0x00000003#32 = .ok .verify ∧
  decode 0x00000004#32 = .ok .create ∧ decode 0x00000006#32 = .ok .b32enc ∧ decode 0x00000007#32 = .ok .b32dec ∧
  decode 0x00000009#32 = .ok .wdec ∧ decode 0x00050815#32 = .ok (.convertbits true 8 5) ∧
  decode 0x00080505#32 = .ok (.convertbits false 5 8) ∧ decode 0x00000008#32 = .ok (.wenc 0) ∧
  decode 0x01000008#32 = .ok (.wenc 1) ∧ decode 0x10000008#32 = .ok (.wenc 16)

/-- R62: as match and mask, and the field formulas of CONVERTBITS and WENC. -/
def Obligations.DecodeIsMatchAndMask : Prop :=
  (∀ w, (decode w = .ok .expand ↔ w = 1#32) ∧ (decode w = .ok .polymod ↔ w = 2#32) ∧
    (decode w = .ok .verify ↔ w = 3#32) ∧ (decode w = .ok .create ↔ w = 4#32) ∧
    (decode w = .ok .b32enc ↔ w = 6#32) ∧ (decode w = .ok .b32dec ↔ w = 7#32) ∧ (decode w = .ok .wdec ↔ w = 9#32) ∧
    ((∃ pad f t, decode w = .ok (.convertbits pad f t)) ↔ w &&& 0xFFC0C0EF#32 = 0x00000005#32) ∧
    ((∃ ver, decode w = .ok (.wenc ver)) ↔ w &&& 0xE0FFFFFF#32 = 0x00000008#32)) ∧
  (∀ (pad : Bool) (f t : BitVec 6),
    decode (0x00000005#32 ||| (BitVec.ofNat 32 pad.toNat <<< 4) ||| (BitVec.ofNat 32 f.toNat <<< 8) |||
      (BitVec.ofNat 32 t.toNat <<< 16)) = .ok (.convertbits pad f t)) ∧
  (∀ ver : Symbol, decode (0x00000008#32 ||| (BitVec.ofNat 32 ver.toNat <<< 24)) = .ok (.wenc ver))

/-- No bit of an encoding is dropped: for every command, every field at every value (R60 to R62). -/
def Obligations.DecodeInvertsEncode : Prop := ∀ i : Instr, decode (encode i) = .ok i

/-- A command has one word only (R62): an accepted word is the encoding of what it decodes to. -/
def Obligations.EncodeInvertsDecode : Prop := ∀ (w : Word) (i : Instr), decode w = .ok i → encode i = w

/-- R63: an illegal word is refused, no working register is used, no output is delivered (the form of an undelivered
field is the model's, log 7, and so is the list the word is issued from, log 1). -/
def Obligations.IllegalWordIsRefused : Prop :=
  ∀ (s : State) (w : Word) (h : List Code) (d : List Elem) (rest : List HostAct),
    s.pending = .command w h d :: rest → Ref.IllegalCommand w ∨ Ref.IllegalWidth w →
    ∃ t, step s = .next t ∧ t.status = .refused ∧ Ref.KeepsRegisters s t ∧ Ref.DeliversNothing s t ∧
      t.pending = rest

/-- R64, R63, R193: CONVERTBITS is refused exactly for a width outside `1 .. CONV_WMAX` or a length beyond `SEQ_MAX` (the
output's length is the one the input length gives, log 10); refused, it touches no working register and delivers nothing
(the form of an undelivered field is the model's, log 7). -/
def Obligations.ConvertbitsWidthsAreBounded : Prop :=
  ∀ (pad : Bool) (f t : BitVec 6) (s : State), ∃ u, exec (.convertbits pad f t) s = .next u ∧
    (u.status = .refused ↔
      ¬ (1 ≤ f.toNat ∧ f.toNat ≤ Config.convWmax ∧ 1 ≤ t.toNat ∧ t.toNat ≤ Config.convWmax) ∨
      fitsSeq s.d.length = false ∨ fitsSeq (convertedLength pad f.toNat t.toNat s.d.length) = false) ∧
    (u.status = .refused → Ref.KeepsInputs s u ∧ Ref.KeepsRegisters s u ∧ Ref.DeliversNothing s u)

/-! ## The step -/

/-- A step at which the host issues a word that decodes is exec of the decoded command, with the host's inputs
presented (R26, R48, R51; log 1). -/
def Obligations.StepRunsTheDecodedCommand : Prop :=
  ∀ (s : State) (w : Word) (h : List Code) (d : List Elem) (rest : List HostAct) (i : Instr),
    s.pending = .command w h d :: rest → decode w = .ok i →
    step s = exec i { s with cmd := w, h := h, d := d, pending := rest }

/-- An idle block stays as it is (log 1), and a reset (R220) leaves the host's inputs alone and the block ready for the
host's next act. -/
def Obligations.StepOfAnIdleOrResetBlock : Prop :=
  (∀ s : State, s.pending = [] → step s = .next s) ∧
  (∀ (s : State) (rest : List HostAct), s.pending = .reset :: rest →
    ∃ t, step s = .next t ∧ t.pending = rest ∧ t.cmd = s.cmd ∧ t.h = s.h ∧ t.d = s.d)

/-- R190, R227: every step ends, in a next state, and serves one act of the host (from the model's list of them, log 1). -/
def Obligations.EveryStepAnswersANextState : Prop :=
  ∀ s : State, ∃ t, step s = .next t ∧ t.pending = s.pending.tail

/-- R51 (c), R227: the host's acts are served in the order it makes them, one a step: after `k` steps exactly the first `k`
are gone, and after all of them the block is idle. The list of acts is the model's (log 1). -/
def Obligations.EveryHostActIsServed : Prop :=
  ∀ (s : State) (k : Nat), k ≤ s.pending.length →
    ∃ t, Sys2Proof.core.run k s = .next t ∧ t.pending = s.pending.drop k

/-- R20, R32, R220: the status and the delivered fields depend on the command word and the inputs alone: not on a
register, an earlier result, a reset, or what the host does later (in the model's list, log 1). -/
def Obligations.ResultDependsOnTheCommandAlone : Prop :=
  ∀ (s₁ s₂ : State) (w : Word) (h : List Code) (d : List Elem) (rest₁ rest₂ : List HostAct),
    s₁.pending = .command w h d :: rest₁ → s₂.pending = .command w h d :: rest₂ →
    ∃ t₁ t₂, step s₁ = .next t₁ ∧ step s₂ = .next t₂ ∧ t₁.status = t₂.status ∧
      (t₁.status = .ok → ∀ i, decode w = .ok i →
        (Ref.deliversO i = true → t₁.o = t₂.o) ∧ (Ref.deliversOH i = true → t₁.oh = t₂.oh) ∧
        (Ref.deliversR i = true → t₁.r = t₂.r) ∧ (Ref.deliversV i = true → t₁.v = t₂.v))

/-- R66, R62: each line of the assembler form, when the host issues it (log 1), runs its command with its scalar operands
in the word of R62 and exactly its sequences; a sequence the line does not name is one the command does not read (R41), so
the clause leaves it open. -/
def Obligations.AssemblerLineRunsItsCommand : Prop :=
  ∀ (s : State) (rest : List HostAct),
    (∀ h, s.pending = (AsmLine.expand h).act :: rest → ∃ d, Ref.RunsAs s rest 0x1#32 .expand h d) ∧
    (∀ d, s.pending = (AsmLine.polymod d).act :: rest → ∃ h, Ref.RunsAs s rest 0x2#32 .polymod h d) ∧
    (∀ h d, s.pending = (AsmLine.verify h d).act :: rest → Ref.RunsAs s rest 0x3#32 .verify h d) ∧
    (∀ h d, s.pending = (AsmLine.create h d).act :: rest → Ref.RunsAs s rest 0x4#32 .create h d) ∧
    (∀ d f t pad, s.pending = (AsmLine.convertbits d f t pad).act :: rest →
      ∃ h, Ref.RunsAs s rest
        (0x5#32 ||| (BitVec.ofNat 32 pad.toNat <<< 4) ||| (BitVec.ofNat 32 f.toNat <<< 8) |||
          (BitVec.ofNat 32 t.toNat <<< 16)) (.convertbits pad f t) h d) ∧
    (∀ h d, s.pending = (AsmLine.b32enc h d).act :: rest → Ref.RunsAs s rest 0x6#32 .b32enc h d) ∧
    (∀ d, s.pending = (AsmLine.b32dec d).act :: rest → ∃ h, Ref.RunsAs s rest 0x7#32 .b32dec h d) ∧
    (∀ h ver d, s.pending = (AsmLine.wenc h ver d).act :: rest →
      Ref.RunsAs s rest (0x8#32 ||| (BitVec.ofNat 32 ver.toNat <<< 24)) (.wenc ver) h d) ∧
    (∀ h d, s.pending = (AsmLine.wdec h d).act :: rest → Ref.RunsAs s rest 0x9#32 .wdec h d)

/-! ## Frames, outcomes, invariant -/

/-- R26, R48, R50: no command writes `CMD`, `H` or `D`, or touches what the host does next (the model's list, log 1). -/
def Obligations.InputsAreNeverWritten : Prop :=
  ∀ (i : Instr) (s t : State), exec i s = .next t → Ref.KeepsInputs s t

/-- R21, R23, R24, R193: `CHK` changes only in the commands that run it, `ACC` and `BITS` only in those that run a
conversion, none in a refused command. That a register not run keeps its value is the model's reading (log 8). -/
def Obligations.WorkingRegistersChangeOnlyWhereRun : Prop :=
  ∀ (i : Instr) (s t : State), exec i s = .next t →
    (Ref.runsChk i = false → t.chk = s.chk) ∧ (Ref.runsAcc i = false → t.acc = s.acc ∧ t.bits = s.bits) ∧
    (t.status = .refused → Ref.KeepsRegisters s t)

/-- R27: a field a command does not deliver has no defined value after it; with FAIL or REFUSED no field has. The form of
the free value is the model's (log 7). -/
def Obligations.UndeliveredFieldsAreFree : Prop :=
  ∀ (i : Instr) (s t : State), exec i s = .next t →
    (t.status ≠ .ok → Ref.DeliversNothing s t) ∧
    (Ref.deliversO i = false → t.o = freeO s.freeIx) ∧ (Ref.deliversOH i = false → t.oh = freeOH s.freeIx) ∧
    (Ref.deliversR i = false → t.r = Config.freeR s.freeIx) ∧ (Ref.deliversV i = false → t.v = Config.freeV s.freeIx)

/-- R195: what a failure changes (the form of an undelivered field is the model's, log 7). -/
def Obligations.FailureDeliversNothing : Prop :=
  ∀ (i : Instr) (s t : State), exec i s = .next t → t.status = .fail →
    Ref.DeliversNothing s t ∧ Ref.KeepsInputs s t

/-- R191: EXPAND, POLYMOD, VERIFY, CREATE and B32ENC never fail. -/
def Obligations.FiveCommandsNeverFail : Prop :=
  ∀ (i : Instr) (s t : State), i ∈ [Instr.expand, .polymod, .verify, .create, .b32enc] →
    exec i s = .next t → t.status ≠ .fail

/-- R193, R194: a command is refused exactly when one of the four reasons holds. The output length in `too_long` is the
one the input lengths give (log 10), and the list the command is issued from is the model's (log 1). -/
def Obligations.RefusedExactlyForTheFourReasons : Prop :=
  ∀ (s : State) (w : Word) (h : List Code) (d : List Elem) (rest : List HostAct),
    s.pending = .command w h d :: rest →
    ∃ t, step s = .next t ∧
      (t.status = .refused ↔
        Ref.IllegalCommand w ∨ Ref.IllegalWidth w ∨ Ref.SymbolBroken w d ∨ Ref.TooLong w h d)

/-- Every step keeps the widths of the machine (R6, R23, R24, R27, R40). The bounds of values that no rule defines are
the model's (log 7, log 8). -/
def Obligations.EveryStepKeepsSound : Prop :=
  ∀ s t : State, s.Sound → step s = .next t → t.Sound

/-- The state after reset is within the widths (its values are the model's, log 9). -/
def Obligations.ResetIsSound : Prop := State.reset.Sound

/-- R65, R124, R155, R170, R105: the ranges of what is delivered. -/
def Obligations.DeliveredValuesAreInRange : Prop :=
  ∀ (i : Instr) (s t : State), exec i s = .next t → t.status = .ok →
    match i with
    | .expand => t.o.length = 2 * s.h.length + 1 ∧ ∀ e ∈ t.o, e ≤ 31
    | .polymod => t.r.toNat < 2 ^ 30
    | .verify => t.v = 0 ∨ t.v = 1
    | .create => t.o.length = 6 ∧ ∀ e ∈ t.o, e ≤ 31
    | .convertbits pad f u =>
      t.o.length = convertedLength pad f.toNat u.toNat s.d.length ∧ ∀ e ∈ t.o, e ≤ 2 ^ u.toNat - 1
    | .b32enc => t.o.length = s.h.length + 1 + s.d.length + 6
    | .b32dec =>
      1 ≤ t.oh.length ∧ t.oh.length ≤ 83 ∧ (∀ c ∈ t.oh, 33 ≤ c.toNat ∧ c.toNat ≤ 126 ∧ ¬ Ref.Upper c.toNat) ∧
        ∀ e ∈ t.o, e ≤ 31
    | .wenc _ => t.o.length = s.h.length + 1 + 1 + (8 * s.d.length + 4) / 5 + 6
    | .wdec => t.v.toNat ≤ 16 ∧ 2 ≤ t.o.length ∧ t.o.length ≤ 40 ∧ ∀ e ∈ t.o, e ≤ 255

/-! ## Unit U1 -/

/-- R101: PMSTEP is the pseudocode, for every accumulator and symbol. -/
def Obligations.PmstepIsThePseudocode : Prop :=
  ∀ (chk : Chk) (v : Symbol), (pmStep chk v).toNat = Ref.pmstep chk.toNat v.toNat

/-- R102: PMSTEP bit by bit, as the hardware wires it. -/
def Obligations.PmstepBitByBit : Prop :=
  ∀ (c : Chk) (v : Symbol) (j : Nat), j < 30 →
    (pmStep c v).getLsbD j =
      ((if j < 5 then v.getLsbD j else c.getLsbD (j - 5))
        ^^ (c.getLsbD 25 && (0x3b6a57b2 : Nat).testBit j) ^^ (c.getLsbD 26 && (0x26508e6d : Nat).testBit j)
        ^^ (c.getLsbD 27 && (0x1ea119fa : Nat).testBit j) ^^ (c.getLsbD 28 && (0x3d4233dd : Nat).testBit j)
        ^^ (c.getLsbD 29 && (0x2a1462b3 : Nat).testBit j))

/-- R107: (a) the step is linear over GF(2); (b) with symbol 0 it is a bijection of the 30-bit values; (c) changing one
symbol changes the final accumulator, whatever follows it. -/
def Obligations.PmstepIsLinearAndSensitive : Prop :=
  (∀ (c₁ c₂ : Chk) (v₁ v₂ : Symbol), pmStep (c₁ ^^^ c₂) (v₁ ^^^ v₂) = pmStep c₁ v₁ ^^^ pmStep c₂ v₂) ∧
  (∀ (c : Chk) (v : Symbol), pmStep c v = pmStep c 0 ^^^ v.zeroExtend 30) ∧
  Function.Bijective (fun c : Chk => pmStep c 0) ∧
  (∀ (before after : List Symbol) (x y : Symbol), x ≠ y →
    polymod (before ++ x :: after) ≠ polymod (before ++ y :: after))

/-- R103, R65: POLYMOD delivers the final accumulator of the pseudocode's run; it refuses an element above 31 or a
length beyond `SEQ_MAX`. -/
def Obligations.PolymodDeliversTheAccumulator : Prop :=
  ∀ s : State,
    ((∀ e ∈ s.d, e ≤ 31) → fitsSeq s.d.length = true →
      ∃ t, exec .polymod s = .next t ∧ t.status = .ok ∧ t.r.toNat = Ref.polymod s.d ∧ Ref.KeepsInputs s t) ∧
    ((∃ e ∈ s.d, 31 < e) ∨ fitsSeq s.d.length = false → Ref.Refuses .polymod s)

/-- R103 corner case, R105 corner case: a run of at most five symbols is a pure shift, so VERIFY of at most five symbols
in all is false. -/
def Obligations.ShortRunsArePureShifts : Prop :=
  (∀ xs : List Symbol, xs.length ≤ 5 → (polymod xs).toNat = xs.foldl (fun n v => n * 32 + v.toNat) 1) ∧
  (∀ (h : List Code) (d : List Symbol), 2 * h.length + 1 + d.length ≤ 5 → verify h d = false)

/-- R104: EXPAND delivers the expanded HRP; it refuses only lengths beyond `SEQ_MAX`. -/
def Obligations.ExpandDeliversTheExpansion : Prop :=
  ∀ s : State,
    (fitsSeq s.h.length = true → fitsSeq (2 * s.h.length + 1) = true →
      ∃ t, exec .expand s = .next t ∧ t.status = .ok ∧ t.o = Ref.expand (ofCodes s.h) ∧ Ref.KeepsInputs s t) ∧
    (fitsSeq s.h.length = false ∨ fitsSeq (2 * s.h.length + 1) = false → Ref.Refuses .expand s)

/-- R105: VERIFY is `ok` with `V = 1` when the run over the expanded HRP and the data leaves 1, else `ok` with `V = 0`. -/
def Obligations.VerifyDeliversTheTruthValue : Prop :=
  ∀ s : State,
    ((∀ e ∈ s.d, e ≤ 31) → fitsSeq s.h.length = true → fitsSeq s.d.length = true →
      ∃ t, exec .verify s = .next t ∧ t.status = .ok ∧
        t.v = (if Ref.polymod (Ref.expand (ofCodes s.h) ++ s.d) = 1 then 1 else 0) ∧ Ref.KeepsInputs s t) ∧
    ((∃ e ∈ s.d, 31 < e) ∨ fitsSeq s.h.length = false ∨ fitsSeq s.d.length = false → Ref.Refuses .verify s)

/-- R106: CREATE delivers the six checksum symbols, and they verify. -/
def Obligations.CreateDeliversAVerifyingChecksum : Prop :=
  (∀ s : State,
    ((∀ e ∈ s.d, e ≤ 31) → fitsSeq s.h.length = true → fitsSeq s.d.length = true →
      ∃ t, exec .create s = .next t ∧ t.status = .ok ∧ t.o = Ref.create (ofCodes s.h) s.d ∧ Ref.KeepsInputs s t) ∧
    ((∃ e ∈ s.d, 31 < e) ∨ fitsSeq s.h.length = false ∨ fitsSeq s.d.length = false → Ref.Refuses .create s)) ∧
  (∀ (h : List Code) (d : List Symbol), verify h (d ++ create h d) = true)

/-- R108: POLYMOD, VERIFY, CREATE and B32ENC with an element of `D` above 31 are refused and deliver nothing (the form of
an undelivered field is the model's, log 7). -/
def Obligations.SymbolContractIsEnforced : Prop :=
  ∀ (i : Instr) (s : State), i ∈ [Instr.polymod, .verify, .create, .b32enc] → (∃ e ∈ s.d, 31 < e) →
    ∃ t, exec i s = .next t ∧ t.status = .refused ∧ Ref.KeepsInputs s t ∧ Ref.KeepsRegisters s t ∧
      Ref.DeliversNothing s t

/-! ## Unit U2 -/

/-- R127, R129: CONVERTBITS regroups the bit stream: on legal widths and lengths within `SEQ_MAX` it is `ok` with the
groups of the stream, or `FAIL` where R122 or R126 says so. -/
def Obligations.ConvertbitsRegroupsTheBitStream : Prop :=
  ∀ (pad : Bool) (f t : BitVec 6) (s : State), legalWidth f.toNat = true → legalWidth t.toNat = true →
    fitsSeq s.d.length = true → fitsSeq (convertedLength pad f.toNat t.toNat s.d.length) = true →
    (∀ out, Ref.conversion s.d f.toNat t.toNat pad = some out →
      ∃ u, exec (.convertbits pad f t) s = .next u ∧ u.status = .ok ∧ u.o = out ∧ Ref.KeepsInputs s u) ∧
    (Ref.conversion s.d f.toNat t.toNat pad = none →
      ∃ u, exec (.convertbits pad f t) s = .next u ∧ u.status = .fail ∧ Ref.KeepsInputs s u)

/-- R130: bytes to symbols and back is the identity on every byte sequence, and the strict way back accepts exactly the
images. -/
def Obligations.ConvertbitsRoundTrip : Prop :=
  (∀ bytes : List Elem, (∀ b ∈ bytes, b ≤ 255) →
    ∃ syms, convertbits bytes 8 5 true = some syms ∧ convertbits syms 5 8 false = some bytes) ∧
  (∀ syms bytes : List Elem, convertbits syms 5 8 false = some bytes → convertbits bytes 8 5 true = some syms)

/-- R128 (a) to (d): between input values `BITS < tobits`; after an absorb `BITS <= frombits + tobits - 1`; `ACC` holds
the bits absorbed and not yet emitted, oldest highest; the emit loop ends. -/
def Obligations.ConverterKeepsItsInvariants : Prop :=
  ∀ (f t : Nat) (d : List Elem), 1 ≤ f → 1 ≤ t → (∀ v ∈ d, v < 2 ^ f) →
    ∃ c, cbValues f t d cbStart = some c ∧ c.bits < t ∧
      Ref.stream f d = Ref.stream t c.out ++ Ref.digits c.bits c.acc ∧
      (∀ v, v < 2 ^ f → (cbAbsorb f t v c).bits ≤ f + t - 1 ∧ (cbAbsorb f t v c).acc < 2 ^ (f + t - 1) ∧
        Ref.digits (cbAbsorb f t v c).bits (cbAbsorb f t v c).acc = Ref.digits c.bits c.acc ++ Ref.digits f v) ∧
      (∀ c' : Conv, (cbEmit t c').bits < t)

/-- R121, R128: the start value of `ACC` cannot be observed. -/
def Obligations.StartValueOfAccIsUnobservable : Prop :=
  ∀ (pad : Bool) (f t acc : Nat) (d : List Elem), 1 ≤ f → 1 ≤ t →
    (cbValues f t d ⟨acc, 0, []⟩).bind (cbFinish pad f t) = convertbits d f t pad

/-! ## Unit U3 -/

/-- R67: symbol `i` is the character at index `i` of the alphabet; the 32 characters are distinct and none is the
separator. -/
def Obligations.AlphabetIsTheSpecString : Prop :=
  (∀ x : Symbol, Ref.alphabet[x.toNat]? = some (charmap x)) ∧ Ref.alphabet.Nodup ∧ 0x31 ∉ Ref.alphabet ∧
  Ref.alphabet.length = 32

/-- R68: the inverse alphabet, by code, for every number a character of a string can be. -/
def Obligations.InverseAlphabetIsTheSpecTable : Prop :=
  ∀ c : Elem, charunmap c = Ref.inverseAlphabet.lookup c

/-- R144: B32ENC delivers the HRP as given, the separator and the data with its checksum as characters; it validates
nothing but the symbol contract and the lengths. -/
def Obligations.B32encDeliversTheString : Prop :=
  ∀ s : State,
    ((∀ e ∈ s.d, e ≤ 31) → fitsSeq s.h.length = true → fitsSeq s.d.length = true →
      fitsSeq (s.h.length + 1 + s.d.length + 6) = true →
      ∃ t, exec .b32enc s = .next t ∧ t.status = .ok ∧ t.o = Ref.encoded (ofCodes s.h) s.d ∧ Ref.KeepsInputs s t) ∧
    ((∃ e ∈ s.d, 31 < e) ∨ fitsSeq s.h.length = false ∨ fitsSeq s.d.length = false ∨
      fitsSeq (s.h.length + 1 + s.d.length + 6) = false → Ref.Refuses .b32enc s)

/-- R145, R146, R148, R149, R150, R151, R153: the tests of B32DEC, each of which ends in FAIL. -/
def Obligations.B32decRejectsByEachTest : Prop :=
  ∀ s : State, fitsSeq s.d.length = true →
    ((∃ c ∈ s.d, c < 33 ∨ 126 < c) ∨
     ((∃ c ∈ s.d, Ref.Lower c) ∧ ∃ c ∈ s.d, Ref.Upper c) ∨
     0x31 ∉ s.d ∨
     (∃ pos, Ref.LastSeparatorAt s.d pos ∧
       (pos < 1 ∨ 83 < pos ∨ s.d.length - pos - 1 < 6 ∨
        (∃ c ∈ s.d.drop (pos + 1), Ref.toLower c ∉ Ref.alphabet) ∨
        (∃ data : List Nat, (∀ x ∈ data, x ≤ 31) ∧
          (s.d.drop (pos + 1)).map Ref.toLower = data.map Ref.charOf ∧
          Ref.polymod (Ref.expand ((s.d.take pos).map Ref.toLower) ++ data) ≠ 1)))) →
    ∃ t, exec .b32dec s = .next t ∧ t.status = .fail

/-- R70, R152, R154, R155: B32DEC succeeds exactly on the strings of the grammar, with the HRP in lowercase and the data
symbols the string stands for. -/
def Obligations.B32decAcceptsTheGrammar : Prop :=
  ∀ s : State, fitsSeq s.d.length = true →
    (∀ hrp data, Ref.StringDenotes s.d hrp data →
      ∃ t, exec .b32dec s = .next t ∧ t.status = .ok ∧ t.oh = hrp ∧ t.o = ofSymbols data ∧ Ref.KeepsInputs s t) ∧
    ((¬ ∃ hrp data, Ref.StringDenotes s.d hrp data) →
      ∃ t, exec .b32dec s = .next t ∧ t.status = .fail ∧ Ref.KeepsInputs s t)

/-- R157: decoding what was encoded gives it back exactly when the HRP has 1 to 83 characters, each in 33..126 and none
uppercase; in no case does B32DEC return an HRP with an uppercase letter. -/
def Obligations.DecodeAfterEncode : Prop :=
  (∀ (h : List Code) (d : List Symbol), b32dec (b32enc h d) = some (h, d) ↔ Ref.HrpOk h) ∧
  (∀ (str : List Elem) (h : List Code) (d : List Symbol), b32dec str = some (h, d) → ∀ c ∈ h, ¬ Ref.Upper c.toNat)

/-- R149: whatever its data, a string made with an HRP of more than 83 characters, or with none, is rejected. -/
def Obligations.HrpLengthBoundaryIsEnforced : Prop :=
  ∀ (h : List Code) (d : List Symbol), 84 ≤ h.length ∨ h = [] → b32dec (b32enc h d) = none

/-- R147, R155: the all-uppercase form of a string without uppercase letters decodes to the same result. -/
def Obligations.UppercaseFormDecodesAlike : Prop :=
  ∀ str : List Elem, (∀ c ∈ str, ¬ Ref.Upper c) → b32dec (str.map Ref.toUpper) = b32dec str

/-- R158 (c), R107 (c): in an accepted string, replacing one character after the separator by one that is not the
separator and whose lowercase form differs makes B32DEC fail. -/
def Obligations.OneChangedDataCharacterFails : Prop :=
  ∀ (str : List Elem) (hrp : List Code) (data : List Symbol) (i : Nat) (old new : Elem),
    b32dec str = some (hrp, data) → hrp.length < i → str[i]? = some old → new ≠ 0x31 →
    Ref.toLower new ≠ Ref.toLower old → b32dec (str.set i new) = none

/-! ## Unit U4 -/

/-- R170 to R175: WDEC succeeds exactly when the address stands for a version and a program under the expected HRP, and
delivers them. -/
def Obligations.WdecAcceptsExactlyTheAddresses : Prop :=
  ∀ s : State, fitsSeq s.h.length = true → fitsSeq s.d.length = true →
    (∀ ver prog, Ref.AddressDenotes s.h s.d ver prog →
      ∃ t, exec .wdec s = .next t ∧ t.status = .ok ∧ t.v = ver ∧ t.o = prog ∧ Ref.KeepsInputs s t) ∧
    ((¬ ∃ ver prog, Ref.AddressDenotes s.h s.d ver prog) →
      ∃ t, exec .wdec s = .next t ∧ t.status = .fail ∧ Ref.KeepsInputs s t)

/-- R178: WENC succeeds exactly under the conditions (a) to (g), and then delivers the string, of the length R178
gives. -/
def Obligations.WencSucceedsExactlyWhen : Prop :=
  ∀ (ver : Symbol) (s : State), fitsSeq s.h.length = true → fitsSeq s.d.length = true →
    fitsSeq (s.h.length + 1 + (1 + convertedLength true 8 5 s.d.length) + 6) = true →
    (Ref.WitnessOk s.h ver s.d →
      ∃ t syms, exec (.wenc ver) s = .next t ∧ t.status = .ok ∧ Ref.conversion s.d 8 5 true = some syms ∧
        t.o = Ref.encoded (ofCodes s.h) (ver.toNat :: syms) ∧
        t.o.length = s.h.length + 1 + 1 + (8 * s.d.length + 4) / 5 + 6 ∧ Ref.KeepsInputs s t) ∧
    (¬ Ref.WitnessOk s.h ver s.d →
      ∃ t, exec (.wenc ver) s = .next t ∧ t.status = .fail ∧ Ref.KeepsInputs s t)

/-- R179: decode of encode gives the version and the program back. -/
def Obligations.WitnessRoundTrip : Prop :=
  ∀ (h : List Code) (ver : Symbol) (prog : List Elem), Ref.WitnessOk h ver prog →
    ∃ str, wenc h ver prog = some str ∧ wdec h str = some (ver, prog)

/-- R177: when the self-check of WENC succeeds, what it decoded is what was encoded. -/
def Obligations.SelfCheckImpliesSameWitness : Prop :=
  ∀ (h : List Code) (ver : Symbol) (prog str : List Elem), wenc h ver prog = some str → wdec h str = some (ver, prog)
end

