-- ==== Sys2Proof/Laws/BitConverter.lean ====
section
/-! SUPPORT. Small facts of unit U2. -/

namespace Sys2Proof.Laws

open Sys2Proof.Machine

/-- R122: the range test passes exactly the values below `2^frombits`. -/
theorem cbCheck_iff (f v : Nat) : cbCheck f v = true ↔ v < 2 ^ f := by
  rw [cbCheck, beq_iff_eq, Nat.shiftRight_eq_div_pow, Nat.div_eq_zero_iff]
  have : 0 < 2 ^ f := by positivity
  omega

/-- `v & mask(n)` is the low `n` bits (R8). -/
theorem and_mask (v n : Nat) : v &&& mask n = v % 2 ^ n := Nat.and_two_pow_sub_one_eq_mod v n

/-- R124, R128 d: with `tobits >= 1` and enough turns the emit loop ends with `BITS < tobits`. -/
theorem emitLoop_bits_lt (t : Nat) (ht : 1 ≤ t) (fuel : Nat) (c : Conv) (h : c.bits ≤ fuel) :
    (emitLoop t fuel c).bits < t := by
  induction fuel generalizing c with
  | zero => simp only [emitLoop]; omega
  | succ n ih =>
    simp only [emitLoop]
    split
    · exact ih _ (by simp only [emitOne]; omega)
    · omega

/-- The emit loop leaves `ACC` alone (R124). -/
theorem emitLoop_acc (t fuel : Nat) (c : Conv) : (emitLoop t fuel c).acc = c.acc := by
  induction fuel generalizing c with
  | zero => rfl
  | succ n ih =>
    simp only [emitLoop]
    split
    · rw [ih]; rfl
    · rfl

@[simp] theorem cbEmit_acc (t : Nat) (c : Conv) : (cbEmit t c).acc = c.acc := emitLoop_acc t _ c

theorem cbValues_append (f t : Nat) (xs ys : List Elem) (c : Conv) :
    cbValues f t (xs ++ ys) c = (cbValues f t xs c).bind (cbValues f t ys) := by
  induction xs generalizing c with
  | nil => rfl
  | cons x xs ih =>
    simp only [List.cons_append, cbValues]
    split
    · exact ih _
    · rfl

end Sys2Proof.Laws
end

