-- ==== Sys2Proof/Laws/Checksum.lean ====
section
/-! SUPPORT. Small facts of unit U1. -/

namespace Sys2Proof.Laws

open Sys2Proof.Machine

@[simp] theorem polymod_nil : polymod [] = seed := rfl

/-- A run over a longer sequence goes on from the accumulator of the shorter one (R103). -/
theorem polymod_append (xs ys : List Symbol) : polymod (xs ++ ys) = ys.foldl pmStep (polymod xs) := by
  simp [polymod]

@[simp] theorem expand_length (h : List Code) : (expand h).length = 2 * h.length + 1 := by
  simp [expand]
  omega

@[simp] theorem checksumSymbols_length (poly : Chk) : (checksumSymbols poly).length = 6 := rfl

@[simp] theorem create_length (h : List Code) (d : List Symbol) : (create h d).length = 6 := rfl

end Sys2Proof.Laws
end

