-- ==== Sys2Proof/Laws/Operands.lean ====
section
/-! SUPPORT. What the tests before a command say, in the spec's own terms (R6, R64, R108, R193, R194). -/

namespace Sys2Proof.Laws

open Sys2Proof.Machine

theorem convWmax_lower : 8 ≤ Config.convWmax := by unfold Config.convWmax; omega

theorem convWmax_upper : Config.convWmax ≤ 63 := by
  have := Config.convWmaxOver8.isLt
  unfold Config.convWmax
  omega

theorem elemW_lower : Config.convWmax ≤ Config.elemW := by unfold Config.elemW; omega

theorem seqMax_lower (m : Nat) (h : Config.seqMax = some m) : 90 ≤ m := by
  unfold Config.seqMax at h
  cases hk : Config.seqMaxOver90 with
  | none => simp [hk] at h
  | some k =>
    rw [hk] at h
    simp only [Option.map_some, Option.some.injEq] at h
    omega

/-- R6: a length fits exactly when it is at most `SEQ_MAX`, if there is one. -/
theorem fitsSeq_iff (n : Nat) : fitsSeq n = true ↔ ∀ m, Config.seqMax = some m → n ≤ m := by
  unfold fitsSeq
  cases h : Config.seqMax with
  | none => simp
  | some m =>
    have := seqMax_lower m h
    simp only [Bool.or_eq_true, decide_eq_true_eq, Option.some.injEq, forall_eq']
    omega

/-- A sequence no longer than one that fits, fits. -/
theorem fitsSeq_mono {n k : Nat} (hnk : n ≤ k) (h : fitsSeq k = true) : fitsSeq n = true := by
  rw [fitsSeq_iff] at *
  intro m hm
  exact le_trans hnk (h m hm)

/-- R64: a width is legal exactly when `1 <= w <= CONV_WMAX`. -/
theorem legalWidth_iff (w : Nat) : legalWidth w = true ↔ 1 ≤ w ∧ w ≤ Config.convWmax := by
  have := convWmax_lower
  simp only [legalWidth, Bool.and_eq_true, Bool.or_eq_true, decide_eq_true_eq]
  omega

/-- R108: the symbol contract. -/
theorem areSymbols_iff (d : List Elem) : areSymbols d = true ↔ ∀ e ∈ d, e ≤ 31 := by
  simp [areSymbols]

@[simp] theorem unlessRefused_nil (e : Ending) : unlessRefused [] e = e := rfl

@[simp] theorem unlessRefused_none (why : List (Option RefuseReason)) (e : Ending) :
    unlessRefused (none :: why) e = unlessRefused why e := rfl

@[simp] theorem unlessRefused_some (r : RefuseReason) (why : List (Option RefuseReason)) (e : Ending) :
    unlessRefused (some r :: why) e = .refuse r := rfl

/-- A command ends in a refusal, or every reason is absent and it ends as its execution does (R194). -/
theorem unlessRefused_cases (why : List (Option RefuseReason)) (e : Ending) :
    (∃ r, some r ∈ why ∧ unlessRefused why e = .refuse r) ∨
      ((∀ w ∈ why, w = none) ∧ unlessRefused why e = e) := by
  induction why with
  | nil => exact .inr ⟨by simp, rfl⟩
  | cons w rest ih =>
    cases w with
    | some r => exact .inl ⟨r, by simp, rfl⟩
    | none =>
      rcases ih with ⟨r, hr, he⟩ | ⟨hn, he⟩
      · exact .inl ⟨r, by simp [hr], by simpa using he⟩
      · refine .inr ⟨?_, by simpa using he⟩
        intro w hw
        rcases List.mem_cons.mp hw with rfl | hw
        · rfl
        · exact hn w hw

/-- What a guarded command delivers: what its execution delivers, or nothing (R27, R193). -/
theorem unlessRefused_results (why : List (Option RefuseReason)) (e : Ending) :
    (unlessRefused why e).results = e.results ∨ (unlessRefused why e).results = {} := by
  rcases unlessRefused_cases why e with ⟨r, -, h⟩ | ⟨-, h⟩
  · exact .inr (by rw [h]; rfl)
  · exact .inl (by rw [h])

theorem widthRefusal_eq_none (f t : Nat) :
    widthRefusal f t = none ↔ legalWidth f = true ∧ legalWidth t = true := by
  simp [widthRefusal]

theorem symbolRefusal_eq_none (d : List Elem) : symbolRefusal d = none ↔ areSymbols d = true := by
  simp [symbolRefusal]

theorem lengthRefusal_eq_none (lens : List Nat) :
    lengthRefusal lens = none ↔ ∀ n ∈ lens, fitsSeq n = true := by
  simp [lengthRefusal]

@[simp] theorem ofSymbols_length (xs : List Symbol) : (ofSymbols xs).length = xs.length := by simp [ofSymbols]

@[simp] theorem toSymbols_length (d : List Elem) : (toSymbols d).length = d.length := by simp [toSymbols]

@[simp] theorem ofCodes_length (cs : List Code) : (ofCodes cs).length = cs.length := by simp [ofCodes]

@[simp] theorem toSymbols_ofSymbols (xs : List Symbol) : toSymbols (ofSymbols xs) = xs := by
  simp only [toSymbols, ofSymbols, List.map_map]
  exact (List.map_congr_left fun x _ => ofNat_toNat x).trans (List.map_id xs)
where
  ofNat_toNat (x : Symbol) : (BitVec.ofNat 5 ∘ BitVec.toNat) x = id x := by simp

/-- Under the symbol contract nothing is lost on the way to 5-bit symbols. -/
theorem ofSymbols_toSymbols (d : List Elem) (h : ∀ e ∈ d, e ≤ 31) : ofSymbols (toSymbols d) = d := by
  induction d with
  | nil => rfl
  | cons e d ih =>
    have he : e < 32 := Nat.lt_succ_of_le (h e (by simp))
    have hd := ih fun x hx => h x (by simp [hx])
    simp only [toSymbols, ofSymbols, List.map_cons, List.cons.injEq] at *
    refine ⟨?_, hd⟩
    rw [BitVec.toNat_ofNat]
    exact Nat.mod_eq_of_lt he

end Sys2Proof.Laws
end

