-- ==== Sys2Proof/Laws/Codec.lean ====
section
/-! SUPPORT. Small facts of unit U3. -/

namespace Sys2Proof.Laws

open Sys2Proof.Machine

@[simp] theorem b32enc_length (h : List Code) (d : List Symbol) :
    (b32enc h d).length = encodedLength h.length d.length := by
  simp [b32enc, encodedLength]
  omega

/-- R148: what the separator search finds: an index that holds the separator, with none after it. -/
theorem lastSeparator_eq_some (s : List Elem) (pos : Nat) :
    lastSeparator s = some pos ↔ s[pos]? = some separator ∧ ∀ j, pos < j → s[j]? ≠ some separator := by
  induction s generalizing pos with
  | nil => simp [lastSeparator]
  | cons c cs ih =>
    simp only [lastSeparator]
    cases hcs : lastSeparator cs with
    | some i =>
      have hi := (ih i).mp hcs
      constructor
      · rintro ⟨⟩
        refine ⟨by simpa using hi.1, ?_⟩
        intro j hj
        cases j with
        | zero => omega
        | succ j => simpa using hi.2 j (by omega)
      · rintro ⟨h1, h2⟩
        cases pos with
        | zero => exact absurd (by simpa using hi.1) (h2 (i + 1) (by omega))
        | succ p =>
          have : lastSeparator cs = some p :=
            (ih p).mpr ⟨by simpa using h1, fun j hj => by simpa using h2 (j + 1) (by omega)⟩
          rw [hcs] at this
          simp only [Option.some.injEq] at this ⊢
          omega
    | none =>
      have hn : ∀ p : Nat, ¬ (cs[p]? = some separator ∧ ∀ j : Nat, p < j → cs[j]? ≠ some separator) := by
        intro p hp
        rw [← ih p, hcs] at hp
        exact absurd hp (by simp)
      constructor
      · intro h
        by_cases hc : c = separator
        · simp only [hc, if_true, Option.some.injEq] at h
          subst h
          refine ⟨by simp [hc], ?_⟩
          intro j hj hsep
          obtain ⟨j, rfl⟩ : ∃ k, j = k + 1 := ⟨j - 1, by omega⟩
          rw [List.getElem?_cons_succ] at hsep
          exact none_of_separator cs hcs j hsep
        · simp [hc] at h
      · rintro ⟨h1, h2⟩
        cases pos with
        | zero =>
          simp only [List.getElem?_cons_zero, Option.some.injEq] at h1
          simp [h1]
        | succ p =>
          exact absurd ⟨by simpa using h1, fun j hj => by simpa using h2 (j + 1) (by omega)⟩ (hn p)
where
  /-- With no separator found, none is there. -/
  none_of_separator (s : List Elem) (h : lastSeparator s = none) (j : Nat) (hj : s[j]? = some separator) : False := by
    induction s generalizing j with
    | nil => simp at hj
    | cons c cs ih =>
      simp only [lastSeparator] at h
      split at h
      · simp at h
      case h_2 hn =>
        split at h
        · simp at h
        case isFalse hc =>
          cases j with
          | zero => exact hc (by simpa using hj)
          | succ j => exact ih hn j (by simpa using hj)

/-- R148: the search finds nothing exactly in a string without a separator. -/
theorem lastSeparator_eq_none (s : List Elem) : lastSeparator s = none ↔ separator ∉ s := by
  induction s with
  | nil => simp [lastSeparator]
  | cons c cs ih =>
    simp only [lastSeparator]
    cases h : lastSeparator cs with
    | some i =>
      have : separator ∈ cs := by
        by_contra hmem
        rw [← ih, h] at hmem
        exact absurd hmem (by simp)
      simp [this]
    | none =>
      have : separator ∉ cs := ih.mp h
      by_cases hc : c = separator <;> simp [hc, this, eq_comm]

/-- R151, R152: the mapped symbols are as many as the characters. -/
theorem charunmapAll_length (s : List Elem) (xs : List Symbol) (h : charunmapAll s = some xs) :
    xs.length = s.length := by
  induction s generalizing xs with
  | nil => simp only [charunmapAll, Option.some.injEq] at h; simp [← h]
  | cons c cs ih =>
    simp only [charunmapAll] at h
    split at h
    case h_1 x ys hx hys =>
      simp only [Option.some.injEq] at h
      subst h
      simp [ih ys hys]
    case h_2 => simp at h

end Sys2Proof.Laws
end

