-- ==== Sys2Proof/Laws/State.lean ====
section
/-! SUPPORT. One lemma per field per update of the state, each true by definition, so that no later proof unfolds a
record update. -/

namespace Sys2Proof.Machine.State

section PresentFields
variable (s : State) (cmd : Word) (h : List Code) (d : List Elem) (rest : List HostAct)

@[simp] theorem present_cmd : (s.present cmd h d rest).cmd = cmd := rfl
@[simp] theorem present_h : (s.present cmd h d rest).h = h := rfl
@[simp] theorem present_d : (s.present cmd h d rest).d = d := rfl
@[simp] theorem present_status : (s.present cmd h d rest).status = s.status := rfl
@[simp] theorem present_o : (s.present cmd h d rest).o = s.o := rfl
@[simp] theorem present_oh : (s.present cmd h d rest).oh = s.oh := rfl
@[simp] theorem present_r : (s.present cmd h d rest).r = s.r := rfl
@[simp] theorem present_v : (s.present cmd h d rest).v = s.v := rfl
@[simp] theorem present_chk : (s.present cmd h d rest).chk = s.chk := rfl
@[simp] theorem present_acc : (s.present cmd h d rest).acc = s.acc := rfl
@[simp] theorem present_bits : (s.present cmd h d rest).bits = s.bits := rfl
@[simp] theorem present_pending : (s.present cmd h d rest).pending = rest := rfl
@[simp] theorem present_freeIx : (s.present cmd h d rest).freeIx = s.freeIx := rfl

end PresentFields

section LeaveUnitsFields
variable (s : State) (u : Units)

@[simp] theorem leaveUnits_cmd : (s.leaveUnits u).cmd = s.cmd := rfl
@[simp] theorem leaveUnits_h : (s.leaveUnits u).h = s.h := rfl
@[simp] theorem leaveUnits_d : (s.leaveUnits u).d = s.d := rfl
@[simp] theorem leaveUnits_status : (s.leaveUnits u).status = s.status := rfl
@[simp] theorem leaveUnits_o : (s.leaveUnits u).o = s.o := rfl
@[simp] theorem leaveUnits_oh : (s.leaveUnits u).oh = s.oh := rfl
@[simp] theorem leaveUnits_r : (s.leaveUnits u).r = s.r := rfl
@[simp] theorem leaveUnits_v : (s.leaveUnits u).v = s.v := rfl
@[simp] theorem leaveUnits_chk : (s.leaveUnits u).chk = if u.u1 then Config.freeChk s.freeIx else s.chk := rfl
@[simp] theorem leaveUnits_acc : (s.leaveUnits u).acc = if u.u2 then freeAcc s.freeIx else s.acc := rfl
@[simp] theorem leaveUnits_bits : (s.leaveUnits u).bits = if u.u2 then freeBits s.freeIx else s.bits := rfl
@[simp] theorem leaveUnits_pending : (s.leaveUnits u).pending = s.pending := rfl
@[simp] theorem leaveUnits_freeIx : (s.leaveUnits u).freeIx = s.freeIx := rfl

end LeaveUnitsFields

section FinishFields
variable (s : State) (e : Ending)

@[simp] theorem finish_cmd : (s.finish e).cmd = s.cmd := rfl
@[simp] theorem finish_h : (s.finish e).h = s.h := rfl
@[simp] theorem finish_d : (s.finish e).d = s.d := rfl
@[simp] theorem finish_status : (s.finish e).status = e.status := rfl
@[simp] theorem finish_o : (s.finish e).o = e.results.o.getD (freeO s.freeIx) := rfl
@[simp] theorem finish_oh : (s.finish e).oh = e.results.oh.getD (freeOH s.freeIx) := rfl
@[simp] theorem finish_r : (s.finish e).r = e.results.r.getD (Config.freeR s.freeIx) := rfl
@[simp] theorem finish_v : (s.finish e).v = e.results.v.getD (Config.freeV s.freeIx) := rfl
@[simp] theorem finish_chk : (s.finish e).chk = s.chk := rfl
@[simp] theorem finish_acc : (s.finish e).acc = s.acc := rfl
@[simp] theorem finish_bits : (s.finish e).bits = s.bits := rfl
@[simp] theorem finish_pending : (s.finish e).pending = s.pending := rfl
@[simp] theorem finish_freeIx : (s.finish e).freeIx = s.freeIx + 1 := rfl

end FinishFields

section ResetBlockFields
variable (s : State) (rest : List HostAct)

@[simp] theorem resetBlock_cmd : (s.resetBlock rest).cmd = s.cmd := rfl
@[simp] theorem resetBlock_h : (s.resetBlock rest).h = s.h := rfl
@[simp] theorem resetBlock_d : (s.resetBlock rest).d = s.d := rfl
@[simp] theorem resetBlock_status : (s.resetBlock rest).status = statusOfFree (Config.freeStatus s.freeIx) := rfl
@[simp] theorem resetBlock_o : (s.resetBlock rest).o = freeO s.freeIx := rfl
@[simp] theorem resetBlock_oh : (s.resetBlock rest).oh = freeOH s.freeIx := rfl
@[simp] theorem resetBlock_r : (s.resetBlock rest).r = Config.freeR s.freeIx := rfl
@[simp] theorem resetBlock_v : (s.resetBlock rest).v = Config.freeV s.freeIx := rfl
@[simp] theorem resetBlock_chk : (s.resetBlock rest).chk = Config.freeChk s.freeIx := rfl
@[simp] theorem resetBlock_acc : (s.resetBlock rest).acc = freeAcc s.freeIx := rfl
@[simp] theorem resetBlock_bits : (s.resetBlock rest).bits = freeBits s.freeIx := rfl
@[simp] theorem resetBlock_pending : (s.resetBlock rest).pending = rest := rfl
@[simp] theorem resetBlock_freeIx : (s.resetBlock rest).freeIx = s.freeIx + 1 := rfl

end ResetBlockFields

end Sys2Proof.Machine.State
end

