-- ==== Sys2Proof/Laws/Ops.lean ====
section
/-! SUPPORT. Everything the shared operations can do: how a command ends (R190, R193, R195). -/

namespace Sys2Proof.Laws

open Sys2Proof.Machine

/-- What `complete` does, field by field: the host's side stands, the record is the ending's, and the working registers
are those of the units run, unless the command is refused. -/
theorem complete_spec (s : State) (u : Units) (e : Ending) :
    (s.complete u e).cmd = s.cmd ∧ (s.complete u e).h = s.h ∧ (s.complete u e).d = s.d ∧
    (s.complete u e).pending = s.pending ∧ (s.complete u e).freeIx = s.freeIx + 1 ∧
    (s.complete u e).status = e.status ∧
    (s.complete u e).o = e.results.o.getD (freeO s.freeIx) ∧
    (s.complete u e).oh = e.results.oh.getD (freeOH s.freeIx) ∧
    (s.complete u e).r = e.results.r.getD (Config.freeR s.freeIx) ∧
    (s.complete u e).v = e.results.v.getD (Config.freeV s.freeIx) := by
  cases e <;> simp [State.complete]

/-- `CHK` after a command (R21, R193; log 8). -/
theorem complete_chk (s : State) (u : Units) (e : Ending) :
    (s.complete u e).chk = if u.u1 = true ∧ e.status ≠ .refused then Config.freeChk s.freeIx else s.chk := by
  cases e <;> simp [State.complete, Ending.status]

/-- `ACC` after a command (R23, R193; log 8). -/
theorem complete_acc (s : State) (u : Units) (e : Ending) :
    (s.complete u e).acc = if u.u2 = true ∧ e.status ≠ .refused then freeAcc s.freeIx else s.acc := by
  cases e <;> simp [State.complete, Ending.status]

/-- `BITS` after a command (R24, R193; log 8). -/
theorem complete_bits (s : State) (u : Units) (e : Ending) :
    (s.complete u e).bits = if u.u2 = true ∧ e.status ≠ .refused then freeBits s.freeIx else s.bits := by
  cases e <;> simp [State.complete, Ending.status]

theorem freeAcc_lt (k : Nat) : freeAcc k < 2 ^ (2 * Config.convWmax - 1) := by
  unfold freeAcc
  exact Nat.mod_lt _ (Nat.two_pow_pos _)

theorem freeBits_lt (k : Nat) : freeBits k < 2 * Config.convWmax := by
  have := convWmax_lower
  unfold freeBits
  exact Nat.mod_lt _ (by omega)

/-- A clipped sequence is no longer than `SEQ_MAX` (R6). -/
theorem clipSeq_fits {α : Type} (xs : List α) : fitsSeq (clipSeq xs).length = true := by
  rw [fitsSeq_iff]
  intro m hm
  simp [clipSeq, hm]

theorem mem_of_mem_clipSeq {α : Type} {xs : List α} {x : α} (h : x ∈ clipSeq xs) : x ∈ xs := by
  unfold clipSeq at h
  split at h
  · exact h
  · exact List.mem_of_mem_take h

theorem freeO_elems (k : Nat) (e : Elem) (h : e ∈ freeO k) : e < 2 ^ Config.elemW := by
  obtain ⟨x, -, rfl⟩ := List.mem_map.mp (mem_of_mem_clipSeq (by unfold freeO at h; exact h))
  exact Nat.mod_lt _ (Nat.two_pow_pos _)

end Sys2Proof.Laws
end

