-- ==== Sys2Proof/Laws/Exec.lean ====
section
/-! SUPPORT. What a command and a step can do, said once. -/

namespace Sys2Proof.Laws

open Sys2Proof.Machine

/-- How a command ends, from its fields and its inputs alone (R20). -/
def endingOf (i : Instr) (h : List Code) (d : List Elem) : Ending :=
  match i with
  | .expand => expandCommand h
  | .polymod => polymodCommand d
  | .verify => verifyCommand h d
  | .create => createCommand h d
  | .convertbits pad f t => convertbitsCommand pad f.toNat t.toNat d
  | .b32enc => b32encCommand h d
  | .b32dec => b32decCommand d
  | .wenc ver => wencCommand ver h d
  | .wdec => wdecCommand h d

/-- Which working registers a command runs (R21, R23, R24). -/
def unitsOf : Instr → Units
  | .expand => ⟨false, false⟩
  | .polymod => ⟨true, false⟩
  | .verify => ⟨true, false⟩
  | .create => ⟨true, false⟩
  | .convertbits _ _ _ => ⟨false, true⟩
  | .b32enc => ⟨true, false⟩
  | .b32dec => ⟨true, false⟩
  | .wenc _ => ⟨true, true⟩
  | .wdec => ⟨true, true⟩

/-- Every command completes: its meaning is the completion of how it ends. -/
theorem exec_eq (i : Instr) (s : State) :
    exec i s = .next (s.complete (unitsOf i) (endingOf i s.h s.d)) := by
  cases i <;> rfl

/-- What a step can do, in one list of cases (R48, R51). -/
theorem step_cases (s : State) :
    (s.pending = [] ∧ step s = .next s) ∨
    (∃ rest, s.pending = .reset :: rest ∧ step s = .next (s.resetBlock rest)) ∨
    (∃ w h d rest i, s.pending = .command w h d :: rest ∧ decode w = .ok i ∧
      step s = .next ((s.present w h d rest).complete (unitsOf i) (endingOf i h d))) ∨
    (∃ w h d rest why, s.pending = .command w h d :: rest ∧ decode w = .error why ∧
      step s = .next ((s.present w h d rest).finish (.refuse .illegalCommand))) := by
  unfold step
  cases hp : s.pending with
  | nil => exact .inl ⟨rfl, rfl⟩
  | cons a rest =>
    cases a with
    | reset => exact .inr (.inl ⟨rest, rfl, rfl⟩)
    | command w h d =>
      cases hd : decode w with
      | ok i => exact .inr (.inr (.inl ⟨w, h, d, rest, i, rfl, hd, by simp [hd, exec_eq]⟩))
      | error why => exact .inr (.inr (.inr ⟨w, h, d, rest, why, rfl, hd, by simp [hd, State.refuseWord]⟩))

/-- A run goes on from the state its first step answers (R51 c). -/
theorem run_succ (k : Nat) (s t : State) (h : step s = .next t) : core.run (k + 1) s = core.run k t := by
  have h' : core.step s = .next t := h
  simp [Host.Core.run, h']

end Sys2Proof.Laws
end

