-- ==== Sys2Proof/Laws/PerInstr.lean ====
section
/-! SUPPORT. Per command: its word matches its row of spec/opcode_table.json (R62). -/

namespace Sys2Proof.Laws.EncodeTable

/-- The mask of the command's row (R62). -/
def tableMask : Instr → Word
  | .expand => 0xFFFFFFFF
  | .polymod => 0xFFFFFFFF
  | .verify => 0xFFFFFFFF
  | .create => 0xFFFFFFFF
  | .convertbits _ _ _ => 0xFFC0C0EF
  | .b32enc => 0xFFFFFFFF
  | .b32dec => 0xFFFFFFFF
  | .wenc _ => 0xE0FFFFFF
  | .wdec => 0xFFFFFFFF

/-- The match value of the command's row (R62). -/
def tableMatch : Instr → Word
  | .expand => 0x00000001
  | .polymod => 0x00000002
  | .verify => 0x00000003
  | .create => 0x00000004
  | .convertbits _ _ _ => 0x00000005
  | .b32enc => 0x00000006
  | .b32dec => 0x00000007
  | .wenc _ => 0x00000008
  | .wdec => 0x00000009

/-- The command's word matches its row. -/
def Statement (i : Instr) : Prop := encode i &&& tableMask i = tableMatch i

theorem expand : Statement .expand := by unfold Statement; decide
theorem polymod : Statement .polymod := by unfold Statement; decide
theorem verify : Statement .verify := by unfold Statement; decide
theorem create : Statement .create := by unfold Statement; decide
theorem b32enc : Statement .b32enc := by unfold Statement; decide
theorem b32dec : Statement .b32dec := by unfold Statement; decide
theorem wdec : Statement .wdec := by unfold Statement; decide
theorem wenc (ver : Symbol) : Statement (.wenc ver) := by
  unfold Statement
  revert ver
  decide

theorem pad_outside_mask : ∀ b : Bool, ((BitVec.ofBool b).zeroExtend 32 <<< 4) &&& 0xFFC0C0EF#32 = 0#32 := by decide
theorem from_outside_mask : ∀ f : BitVec 6, (f.zeroExtend 32 <<< 8) &&& 0xFFC0C0EF#32 = 0#32 := by decide
theorem to_outside_mask : ∀ t : BitVec 6, (t.zeroExtend 32 <<< 16) &&& 0xFFC0C0EF#32 = 0#32 := by decide

theorem convertbits (pad : Bool) (fromBits toBits : BitVec 6) : Statement (.convertbits pad fromBits toBits) := by
  show (5#32 ||| ((((BitVec.ofBool pad).zeroExtend 32 <<< 4) ||| (fromBits.zeroExtend 32 <<< 8)) |||
    (toBits.zeroExtend 32 <<< 16))) &&& 0xFFC0C0EF#32 = 5#32
  have distrib : ∀ a b c : Word, (a ||| b) &&& c = a &&& c ||| b &&& c := by
    intro a b c
    ext i hi
    simp [Bool.and_or_distrib_right]
  rw [distrib, distrib, distrib, pad_outside_mask, from_outside_mask, to_outside_mask]
  decide

end Sys2Proof.Laws.EncodeTable
end

