-- ==== Sys2Proof/Tests/Slice0.lean ====
section
/-! SUPPORT. Own tests: decoding of words written out from 30_encoding.md R60 to R62, the WellFormed smoke tests, one or
two vectors of 95_test_vectors.md a command, and a witness for the hypotheses of every statement. Expected values are the
spec's (the vector's id stands beside each test). -/

namespace Sys2Proof.Tests

open Sys2Proof.Machine

/-- The state after reset with the inputs `h` and `d` presented. -/
def st (h : List Code) (d : List Elem) : State := { State.reset with h := h, d := d }

/-- A field of the next state. -/
def after {α : Type} (get : State → α) : Host.Outcome State Fault Refusal → Option α
  | .next s => some (get s)
  | .fault _ => none
  | .refused _ => none

/-- A string as elements of `D` or `O`. -/
def txt (s : String) : List Elem := s.toList.map Char.toNat

/-- A string as characters of `H` or `OH`. -/
def hrp (s : String) : List Code := s.toList.map fun c => BitVec.ofNat 8 c.toNat

/-! ## Decoding: fields at their bit places, from the most significant bit down (R60) -/

theorem test_decode_expand : decode 0b000_00000_00_000000_00_000000_000_0_0001#32 = .ok .expand := by decide
theorem test_decode_polymod : decode 0b000_00000_00_000000_00_000000_000_0_0010#32 = .ok .polymod := by decide
theorem test_decode_verify : decode 0b000_00000_00_000000_00_000000_000_0_0011#32 = .ok .verify := by decide
theorem test_decode_create : decode 0b000_00000_00_000000_00_000000_000_0_0100#32 = .ok .create := by decide
theorem test_decode_convertbits :
    decode 0b000_00000_00_000101_00_001000_000_1_0101#32 = .ok (.convertbits true 8 5) := by decide
theorem test_decode_convertbits_asymmetric :
    decode 0b000_00000_00_110001_00_000011_000_0_0101#32 = .ok (.convertbits false 3 49) := by decide
theorem test_decode_b32enc : decode 0b000_00000_00_000000_00_000000_000_0_0110#32 = .ok .b32enc := by decide
theorem test_decode_b32dec : decode 0b000_00000_00_000000_00_000000_000_0_0111#32 = .ok .b32dec := by decide
theorem test_decode_wenc : decode 0b000_10001_00_000000_00_000000_000_0_1000#32 = .ok (.wenc 17) := by decide
theorem test_decode_wdec : decode 0b000_00000_00_000000_00_000000_000_0_1001#32 = .ok .wdec := by decide

/-- V-R1, V-R2. -/
theorem test_decode_reserved_op :
    decode 0#32 = .error .reservedOp ∧ decode 0xa#32 = .error .reservedOp ∧ decode 0xf#32 = .error .reservedOp := by decide
/-- V-R3, V-R4. -/
theorem test_decode_unused_field :
    decode 0x12#32 = .error .unusedField ∧ decode 0x01000009#32 = .error .unusedField := by decide
/-- V-R5, V-R6. -/
theorem test_decode_reserved_field :
    decode 0x00050825#32 = .error .reservedField ∧ decode 0x20000008#32 = .error .reservedField := by decide

theorem test_encode_convertbits : encode (.convertbits true 8 5) = 0x00050815#32 := by decide
theorem test_encode_wenc : encode (.wenc 16) = 0x10000008#32 := by decide
theorem test_decodeTableWord : decodeTableWord 32 0x00080505 = some (.convertbits false 5 8) := by decide

/-! ## WellFormed: an ill-formed term for each check (R64) -/

theorem test_wellFormed_ok : Instr.wellFormed (.convertbits true 8 5) = true := by decide
theorem test_wellFormed_frombits_zero : Instr.wellFormed (.convertbits true 0 5) = false := by decide
theorem test_wellFormed_tobits_zero : Instr.wellFormed (.convertbits true 8 0) = false := by decide
/-- A width above `CONV_WMAX`: `CONV_WMAX` is open, so the check is shown for every build that has one in the field. -/
theorem test_wellFormed_frombits_above (h : Config.convWmax < 63) : Instr.wellFormed (.convertbits true 63 5) = false := by
  have : legalWidth 63 = false := by
    rw [Bool.eq_false_iff, ne_eq, Laws.legalWidth_iff]
    omega
  simp [Instr.wellFormed, this]
theorem test_wellFormed_tobits_above (h : Config.convWmax < 63) : Instr.wellFormed (.convertbits true 5 63) = false := by
  have : legalWidth 63 = false := by
    rw [Bool.eq_false_iff, ne_eq, Laws.legalWidth_iff]
    omega
  simp [Instr.wellFormed, this]

/-! ## Micro-operations -/

/-- V-P15, V-P12, V-P14. -/
theorem test_pmStep : pmStep 0x02300400 0 = 0x3d6ad7b2 ∧ pmStep 0x3fffffff 0 = 0x2b326eab ∧ pmStep 0x02000001 5 = 0x3b6a5797 := by
  decide
/-- V-P6 to V-P10: each top bit its constant. -/
theorem test_taps : [0x02000000#30, 0x04000000, 0x08000000, 0x10000000, 0x20000000].map (pmStep · 0) =
    [0x3b6a57b2, 0x26508e6d, 0x1ea119fa, 0x3d4233dd, 0x2a1462b3] := by decide
/-- P2 command 2, register by register. -/
theorem test_absorb : cbAbsorb 5 8 0 ⟨0x91a, 7, [0x12]⟩ = ⟨0x340, 12, [0x12]⟩ := by decide
theorem test_emit : cbEmit 5 ⟨0x234, 11, [2]⟩ = ⟨0x234, 1, [2, 8, 26]⟩ := by decide

/-! ## The commands -/

/-- V-E1. -/
theorem test_expand : after State.o (exec .expand (st (hrp "bc") [])) = some [3, 3, 0, 2, 3] := by decide
/-- V-E3, V-E7: uppercase, and the largest character. -/
theorem test_expand_codes : after State.o (exec .expand (st [0x42, 255] [])) = some [2, 7, 0, 2, 31] := by decide
/-- V-Q-T. -/
theorem test_polymod : after State.r (exec .polymod (st [] [3, 0, 1, 0, 0, 0, 0, 0, 0])) = some 0x15ccfe9e := by decide
/-- V-R9. -/
theorem test_polymod_refuses : after State.status (exec .polymod (st [] [32])) = some .refused := by decide
/-- V-V1. -/
theorem test_verify_true : after State.v (exec .verify (st (hrp "a") [10, 28, 25, 31, 20, 31])) = some 1 := by decide
/-- V-V2: a false verification is `OK`. -/
theorem test_verify_false : after (fun s => (s.status, s.v)) (exec .verify (st (hrp "a") [0, 0, 0, 0, 0, 0])) = some (.ok, 0) := by
  decide
/-- V-C1. -/
theorem test_create : after State.o (exec .create (st (hrp "a") [])) = some [10, 28, 25, 31, 20, 31] := by decide
/-- V-C7. -/
theorem test_create_data : after State.o (exec .create (st (hrp "bc") [1, 21, 15, 6, 16])) = some [24, 13, 17, 29, 19, 15] := by
  decide +kernel
/-- V-K24. -/
theorem test_convertbits : after State.o (exec (.convertbits true 8 5) (st [] [0x12, 0x34])) = some [2, 8, 26, 0] := by decide
/-- V-K26: the leftover bit is 1. -/
theorem test_convertbits_fails : after State.status (exec (.convertbits false 5 8) (st [] [2, 8, 26, 1])) = some .fail := by decide
/-- V-BE1. -/
theorem test_b32enc : after State.o (exec .b32enc (st (hrp "a") [])) = some (txt "a12uel5l") := by decide
/-- V-BE4: nothing is validated. -/
theorem test_b32enc_uppercase : after State.o (exec .b32enc (st (hrp "A") [])) = some (txt "A1g7sgd8") := by decide
/-- V-B23: the last `1` separates. -/
theorem test_b32dec : after (fun s => (s.oh, s.o)) (exec .b32dec (st [] (txt "a1b1pzhxsrke"))) = some (hrp "a1b", [1, 2]) := by
  decide +kernel
/-- V-B2, V-B3: all uppercase decodes, mixed case fails. -/
theorem test_b32dec_case : after State.oh (exec .b32dec (st [] (txt "A12UEL5L"))) = some (hrp "a") ∧
    after State.status (exec .b32dec (st [] (txt "A12uEL5L"))) = some .fail := by decide +kernel
/-- V-WE6. -/
theorem test_wenc : after State.o (exec (.wenc 1) (st (hrp "bc") [171, 205])) = some (txt "bc1p40xscd3an0") := by decide +kernel
/-- V-WE3: version 0 with 21 bytes. -/
theorem test_wenc_fails : after State.status (exec (.wenc 0) (st (hrp "bc") (List.replicate 21 0))) = some .fail := by
  decide +kernel
/-- V-WD6. -/
theorem test_wdec : after (fun s => (s.v, s.o)) (exec .wdec (st (hrp "bc") (txt "bc1p40xscd3an0"))) = some (1, [171, 205]) := by
  decide +kernel
/-- V-WD3: the expected HRP is compared as supplied. -/
theorem test_wdec_uppercase_hrp :
    after State.status (exec .wdec (st (hrp "BC") (txt "BC1QQQQQQQQQQQQQQQQQQQQQQQQQQQQQQQQ9E75RS"))) = some .fail := by
  decide +kernel

/-! ## The step -/

/-- P4 commands 4 to 6 in one list: refused, then `OK`, then an illegal word. -/
def p4 : State := { State.reset with
  pending := [.command 0x2 [] [3, 32], .command 0x2 [] [3], .command 0xa [] []] }

theorem test_step_refused : after State.status (step p4) = some .refused := by decide
theorem test_run_after_refusal : after State.r (core.run 2 p4) = some 0x23 := by decide
theorem test_run_illegal_word : after (fun s => (s.status, s.pending)) (core.run 3 p4) = some (.refused, []) := by decide
theorem test_withFetchWord : after State.o (step ((st (hrp "a") []).withFetchWord 32 0x4)) = some [10, 28, 25, 31, 20, 31] := by
  decide
/-- V-R7: a CONVERTBITS word with `TOBITS` 0 is refused. -/
theorem test_withFetchWord_illegal_width : after State.status (step (State.reset.withFetchWord 32 0x805)) = some .refused := by
  decide

/-- P3 commands 3, 4 and 6, in the assembler form: the last result stands, the list is served. -/
theorem test_assembler : after (fun s => (s.o, s.pending)) (core.run 3 { State.reset with
    pending := assemble [.create (hrp "a") [], .verify (hrp "a") [10, 28, 25, 31, 20, 31], .b32enc (hrp "a") []] }) =
    some (txt "a12uel5l", []) := by decide +kernel

/-- R66 with R62: a WENC line is its command word with its own two sequences (P1 command 1). -/
theorem test_assembler_wenc : (AsmLine.wenc (hrp "bc") 1 [171, 205]).act = .command 0x01000008 (hrp "bc") [171, 205] := by decide
/-- A CONVERTBITS line: its operands go to the fields of R60 (V-K1). -/
theorem test_assembler_convertbits : (AsmLine.convertbits [18, 52] 8 5 true).act = .command 0x00050815 [] [18, 52] := by decide

/-! ## Witnesses: the hypotheses of each statement can be met together -/

/-- A state whose next act is the command `w`. -/
def issuing (w : Word) (h : List Code) (d : List Elem) : State := { State.reset with pending := [.command w h d] }

/-- IllegalWordIsRefused: a reserved `OP` at both ends, a reserved field, an unused field, a width of 0. -/
theorem witness_illegalWord :
    (issuing 0 [] []).pending = [.command 0 [] []] ∧
    (Ref.field 0#32 0 4 = 0 ∧ 10 ≤ Ref.field 0xa#32 0 4 ∧ Ref.field 0x00050825#32 5 3 ≠ 0 ∧
      Ref.field 0x20000008#32 29 3 ≠ 0 ∧ (Ref.field 0x12#32 0 4 ≠ 5 ∧ Ref.field 0x12#32 4 1 ≠ 0) ∧
      (Ref.field 0x01000009#32 0 4 ≠ 8 ∧ Ref.field 0x01000009#32 24 5 ≠ 0)) ∧
    (Ref.field 0x805#32 0 4 = 5 ∧ Ref.field 0x805#32 16 6 = 0) := by decide

/-- EncodeInvertsDecode, StepRunsTheDecodedCommand, ResultDependsOnTheCommandAlone, RefusedExactlyForTheFourReasons. -/
theorem witness_issue : (issuing 0x00050815 [] [255]).pending = [.command 0x00050815 [] [255]] ∧
    decode 0x00050815 = .ok (.convertbits true 8 5) := by decide

/-- ResultDependsOnTheCommandAlone: two states that differ, the same command, an `OK` answer. -/
theorem witness_two_states : p4 ≠ { p4 with chk := 5, pending := [.command 0x2 [] [3, 32]] } ∧
    after State.status (step (issuing 0x2 [] [3])) = some .ok := by decide

/-- StepOfAnIdleOrResetBlock. -/
theorem witness_idle_and_reset : State.reset.pending = [] ∧
    ({ State.reset with pending := [.reset] } : State).pending = .reset :: [] := by decide

/-- ConvertbitsWidthsAreBounded: both sides occur, refused at each width 0 and executed at both ends of the widths every
build has. -/
theorem witness_widths : after State.status (exec (.convertbits true 0 5) (st [] [])) = some .refused ∧
    after State.status (exec (.convertbits true 8 0) (st [] [])) = some .refused ∧
    after State.status (exec (.convertbits true 1 8) (st [] [1])) = some .ok ∧
    after State.status (exec (.convertbits true 8 1) (st [] [1])) = some .ok := by decide

/-- The frames: an answer `OK`, an answer `FAIL` and an answer `REFUSED` exist. -/
theorem witness_answers : after State.status (exec .b32dec (st [] (txt "a12uel5l"))) = some .ok ∧
    after State.status (exec .b32dec (st [] [])) = some .fail ∧
    after State.status (exec .create (st [] [32])) = some .refused := by decide +kernel

/-- FiveCommandsNeverFail, SymbolContractIsEnforced. -/
theorem witness_lists : Instr.b32enc ∈ [Instr.expand, .polymod, .verify, .create, .b32enc] ∧
    Instr.verify ∈ [Instr.polymod, .verify, .create, .b32enc] ∧ ∃ e ∈ (st [] [0, 32]).d, 31 < e := by decide

/-- EveryStepKeepsSound: the reset state with a command to come is sound. -/
theorem witness_sound : (issuing 0x00050815 [] [255]).Sound ∧
    ∃ t, step (issuing 0x00050815 [] [255]) = .next t := by
  have h8 := Laws.convWmax_lower
  have hw := Laws.elemW_lower
  have hpow : (2 : Nat) ^ 8 ≤ 2 ^ Config.elemW := Nat.pow_le_pow_right (by decide) (by omega)
  refine ⟨⟨Nat.two_pow_pos _, ?_, ?_, by decide, by decide, ?_, ?_⟩, _, rfl⟩
  · show 0 < 2 * Config.convWmax
    omega
  · intro e he
    exact absurd he (by simp [issuing, State.reset])
  · intro e he
    exact absurd he (by simp [issuing, State.reset])
  · intro a ha
    obtain rfl : a = .command 0x00050815 [] [255] := by simpa [issuing] using ha
    intro e he
    obtain rfl : e = 255 := by simpa using he
    exact Nat.lt_of_lt_of_le (by decide : 255 < 2 ^ 8) hpow

/-- POLYMOD, VERIFY, CREATE, B32ENC, EXPAND: symbols at the ends of the range, lengths that fit, an element just
beyond. -/
theorem witness_symbols : (∀ e ∈ (st (hrp "a") [0, 31]).d, e ≤ 31) ∧ fitsSeq (st (hrp "a") [0, 31]).d.length = true ∧
    fitsSeq (st (hrp "a") [0, 31]).h.length = true ∧ fitsSeq (2 * 1 + 1) = true ∧ fitsSeq (1 + 1 + 2 + 6) = true ∧
    (∃ e ∈ (st [] [32]).d, 31 < e) := by decide

/-- The refusal clauses for lengths: `SEQ_MAX` is open, so in every build that has one a state meets them. -/
theorem witness_tooLong (m : Nat) (h : Config.seqMax = some m) :
    fitsSeq (st (List.replicate (m + 1) 0x61) []).h.length = false ∧
    fitsSeq (st [] (List.replicate (m + 1) 0)).d.length = false ∧ fitsSeq (2 * (m + 1) + 1) = false := by
  have key : ∀ n, m < n → fitsSeq n = false := by
    intro n hn
    rw [Bool.eq_false_iff, ne_eq, Laws.fitsSeq_iff]
    intro hall
    exact absurd (hall m h) (by omega)
  exact ⟨key _ (by simp [st]), key _ (by simp [st]), key _ (by omega)⟩

/-- DeliveredValuesAreInRange: each command answers `OK` somewhere. -/
theorem witness_each_ok : ([.expand, .polymod, .verify, .create, .convertbits true 8 5, .b32enc].all fun i =>
      after State.status (exec i (st (hrp "a") [3])) == some .ok) = true ∧
    after State.status (exec .b32dec (st [] (txt "a12uel5l"))) = some .ok ∧
    after State.status (exec (.wenc 1) (st (hrp "bc") [171, 205])) = some .ok ∧
    after State.status (exec .wdec (st (hrp "bc") (txt "bc1p40xscd3an0"))) = some .ok := by decide +kernel

/-- AssemblerLineRunsItsCommand: a state for each of the nine forms. -/
theorem witness_asm : ∀ line ∈ [AsmLine.expand [], .polymod [31], .verify [] [], .create [0x61] [0], .convertbits [255] 8 5 true,
      .b32enc [0x61] [], .b32dec [], .wenc [0x62] 31 [0], .wdec [0x62] []],
    ({ State.reset with pending := assemble [line] } : State).pending = line.act :: [] := by decide

/-- EveryHostActIsServed: no step, and as many as there are acts. -/
theorem witness_served : 0 ≤ p4.pending.length ∧ 3 ≤ p4.pending.length := by decide

/-- HrpLengthBoundaryIsEnforced: both ends. -/
theorem witness_boundary : 84 ≤ (List.replicate 84 0x61#8).length ∧ ([] : List Code) = [] := by decide

/-- SelfCheckImpliesSameWitness: V-WE6. -/
theorem witness_selfCheck : wenc (hrp "bc") 1 [171, 205] = some (txt "bc1p40xscd3an0") := by decide +kernel

/-- PmstepBitByBit, ShortRunsArePureShifts: both ends of each range. -/
theorem witness_ranges : (0 : Nat) < 30 ∧ (29 : Nat) < 30 ∧ ([] : List Symbol).length ≤ 5 ∧ [1#5, 2, 3, 4, 5].length ≤ 5 ∧
    2 * (hrp "a").length + 1 + [1#5, 2].length ≤ 5 ∧ (0 : Symbol) ≠ 1 := by decide

/-- ConvertbitsRegroupsTheBitStream: a conversion that succeeds, one that fails on its bits, one on its range. -/
theorem witness_conversion : legalWidth 8 = true ∧ legalWidth 5 = true ∧ fitsSeq 2 = true ∧
    fitsSeq (convertedLength true 8 5 2) = true ∧ Ref.conversion [0x12, 0x34] 8 5 true = some [2, 8, 26, 0] ∧
    Ref.conversion [31] 5 8 false = none ∧ Ref.conversion [256] 8 5 true = none := by decide +kernel

/-- ConvertbitsRoundTrip. -/
theorem witness_roundTrip : (∀ b ∈ [0, 255], b ≤ 255) ∧ convertbits [31, 28] 5 8 false = some [255] := by decide

/-- ConverterKeepsItsInvariants, StartValueOfAccIsUnobservable. -/
theorem witness_widths_one : 1 ≤ 1 ∧ ∀ v ∈ [0, 1], v < 2 ^ 1 := by decide

/-- B32decRejectsByEachTest: each test fires at the ends of its range. -/
theorem witness_rejects : fitsSeq (txt "a12uel5l").length = true ∧
    (∃ c ∈ txt "a1 2uel5l", c < 33 ∨ 126 < c) ∧ (∃ c ∈ [127], c < 33 ∨ 126 < c) ∧
    ((∃ c ∈ txt "Az", 0x61 ≤ c ∧ c ≤ 0x7a) ∧ ∃ c ∈ txt "Az", 0x41 ≤ c ∧ c ≤ 0x5a) ∧
    0x31 ∉ txt "pzry9x0s0muk" ∧ (txt "1q")[0]? = some 0x31 ∧ (List.replicate 84 97 ++ txt "1jsd6e5")[84]? = some 0x31 ∧
    (txt "a12uel5").length - 1 - 1 < 6 ∧ (∃ c ∈ (txt "a12uel5b").drop 2, Ref.toLower c ∉ Ref.alphabet) := by
  decide +kernel

/-- The same, for the last separator and for the checksum test (V-B11). -/
theorem witness_rejects_checksum : Ref.LastSeparatorAt (txt "a1qqqqqq") 1 ∧
    (txt "qqqqqq").map Ref.toLower = [0, 0, 0, 0, 0, 0].map Ref.charOf ∧
    Ref.polymod (Ref.expand ((txt "a").map Ref.toLower) ++ [0, 0, 0, 0, 0, 0]) ≠ 1 := by
  refine ⟨⟨by decide, ?_⟩, by decide +kernel, by decide +kernel⟩
  intro j hj
  by_cases h8 : j < 8
  · have : ∀ k < 8, 1 < k → (txt "a1qqqqqq")[k]? ≠ some 0x31 := by decide +kernel
    exact this j h8 hj
  · rw [List.getElem?_eq_none (by have : (txt "a1qqqqqq").length = 8 := by decide +kernel
                                  omega)]
    simp

/-- B32decAcceptsTheGrammar: the string of V-B1 stands for the HRP `a` and no data. -/
theorem witness_stringDenotes : Ref.StringDenotes (txt "a12uel5l") (hrp "a") [] := by
  refine ⟨by decide +kernel, ?_, by decide, by decide, [10, 28, 25, 31, 20, 31], by decide, by decide +kernel,
    by decide +kernel⟩
  rintro ⟨-, hu⟩
  revert hu
  unfold Ref.Upper
  decide +kernel

/-- The same, for a string that stands for nothing: the empty string. -/
theorem witness_no_stringDenotes : ¬ ∃ h d, Ref.StringDenotes [] h d := by
  rintro ⟨h, d, -, -, -, -, ck, -, heq, -⟩
  simp [ofCodes] at heq

/-- UppercaseFormDecodesAlike, OneChangedDataCharacterFails (V-B4). -/
theorem witness_changed_character : (∀ c ∈ txt "a12uel5l", ¬ (0x41 ≤ c ∧ c ≤ 0x5a)) ∧
    b32dec (txt "a12uel5l") = some (hrp "a", []) ∧ (hrp "a").length < 7 ∧ (txt "a12uel5l")[7]? = some 0x6c ∧
    0x6d ≠ 0x31 ∧ Ref.toLower 0x6d ≠ Ref.toLower 0x6c := by decide +kernel

/-- DecodeAfterEncode, WencSucceedsExactlyWhen, WitnessRoundTrip: the conditions (a) to (g), at the shortest program and
the highest version. -/
theorem witness_witnessOk : Ref.WitnessOk (hrp "bc") 16 [171, 205] ∧
    fitsSeq (2 + 1 + (1 + convertedLength true 8 5 2) + 6) = true := by
  refine ⟨⟨by decide, ⟨by decide, by decide, ?_⟩, by decide, by decide, by decide, by decide⟩, by decide⟩
  unfold Ref.Upper
  decide

/-- And one where (e) is broken, at the lowest version not allowed. -/
theorem witness_not_witnessOk : ¬ Ref.WitnessOk (hrp "bc") 17 [171, 205] := by
  rintro ⟨-, -, -, -, h, -⟩
  exact absurd h (by decide)

/-- WdecAcceptsExactlyTheAddresses: V-WD6. -/
theorem witness_addressDenotes : Ref.AddressDenotes (hrp "bc") (txt "bc1p40xscd3an0") 1 [171, 205] := by
  refine ⟨[21, 15, 6, 16], ⟨by decide +kernel, ?_, by decide, by decide, [24, 13, 17, 29, 19, 15], by decide,
    by decide +kernel, by decide +kernel⟩, by decide +kernel, by decide, by decide, by decide, by decide⟩
  rintro ⟨-, hu⟩
  revert hu
  unfold Ref.Upper
  decide +kernel

/-- And an address that stands for nothing. -/
theorem witness_no_addressDenotes : ¬ ∃ ver prog, Ref.AddressDenotes (hrp "bc") [] ver prog := by
  rintro ⟨ver, prog, syms, ⟨-, -, -, -, ck, -, heq, -⟩, -⟩
  simp [ofCodes] at heq

end Sys2Proof.Tests
end

section
/-! PROOF. Unit U2's share of the width invariant: what a conversion delivers, in number and in width (R124 to R129). -/

namespace Sys2Proof.Laws

open Sys2Proof.Machine

@[simp] theorem cbAbsorb_bits (f t v : Nat) (c : Conv) : (cbAbsorb f t v c).bits = c.bits + f := rfl

@[simp] theorem cbAbsorb_out (f t v : Nat) (c : Conv) : (cbAbsorb f t v c).out = c.out := rfl

/-- R8: a value under `mask(t)` has `t` bits. -/
theorem and_mask_lt (v t : Nat) : v &&& mask t < 2 ^ t := by
  rw [and_mask]
  exact Nat.mod_lt _ (Nat.two_pow_pos t)

/-- Every value a conversion has put out has `t` bits. -/
def OutFits (t : Nat) (out : List Elem) : Prop := ∀ e ∈ out, e < 2 ^ t

theorem OutFits.append_one {t : Nat} {out : List Elem} (h : OutFits t out) {e : Elem} (he : e < 2 ^ t) :
    OutFits t (out ++ [e]) := by
  intro x hx
  rcases List.mem_append.mp hx with hx | hx
  · exact h x hx
  · rwa [List.mem_singleton.mp hx]

/-- R124: the emit loop moves bits from `BITS` to the output, `tobits` at a time, and loses none. -/
theorem emitLoop_total (t fuel : Nat) (c : Conv) :
    (emitLoop t fuel c).out.length * t + (emitLoop t fuel c).bits = c.out.length * t + c.bits := by
  induction fuel generalizing c with
  | zero => rfl
  | succ n ih =>
    simp only [emitLoop]
    split
    · rw [ih]
      simp only [emitOne, List.length_append, List.length_singleton, Nat.add_mul]
      omega
    · rfl

theorem emitLoop_outFits (t fuel : Nat) (c : Conv) (h : OutFits t c.out) : OutFits t (emitLoop t fuel c).out := by
  induction fuel generalizing c with
  | zero => exact h
  | succ n ih =>
    simp only [emitLoop]
    split
    · exact ih _ (h.append_one (and_mask_lt _ t))
    · exact h

/-- The conversion `c` has taken in `n` values of `f` bits and put out all the whole groups of `t` bits they hold
(R129): what the loop of R127 keeps. -/
structure Regrouped (f t n : Nat) (c : Conv) : Prop where
  total : c.out.length * t + c.bits = n * f
  bits_lt : c.bits < t
  outFits : OutFits t c.out

theorem regrouped_cbStart (f t : Nat) (ht : 1 ≤ t) : Regrouped f t 0 cbStart where
  total := by simp [cbStart]
  bits_lt := ht
  outFits := fun _ he => absurd he List.not_mem_nil

theorem Regrouped.cbValue {f t n v : Nat} {c c' : Conv} (hc : Regrouped f t n c)
    (h : cbValue f t v c = some c') : Regrouped f t (n + 1) c' := by
  obtain ⟨-, h⟩ := Option.ite_none_right_eq_some.mp h
  obtain rfl := Option.some.inj h
  refine ⟨?_, emitLoop_bits_lt t (Nat.zero_lt_of_lt hc.bits_lt) _ _ le_rfl, emitLoop_outFits t _ _ hc.outFits⟩
  rw [cbEmit, emitLoop_total, cbAbsorb_out, cbAbsorb_bits, ← Nat.add_assoc, hc.total, Nat.succ_mul]

theorem Regrouped.cbValues {f t n : Nat} {vs : List Elem} {c c' : Conv} (hc : Regrouped f t n c)
    (h : cbValues f t vs c = some c') : Regrouped f t (n + vs.length) c' := by
  induction vs generalizing c n with
  | nil =>
    obtain rfl : c = c' := Option.some.inj h
    exact hc
  | cons v vs ih =>
    simp only [Machine.cbValues] at h
    split at h
    case h_1 c₁ h₁ =>
      rw [List.length_cons, Nat.add_comm vs.length, ← Nat.add_assoc]
      exact ih (hc.cbValue h₁) h
    case h_2 => cases h

/-- R126, R129: the whole groups are as many as the strict way puts out. -/
theorem Regrouped.length_strict {f t n : Nat} {c : Conv} (hc : Regrouped f t n c) :
    c.out.length = convertedLength false f t n := by
  have ht : 0 < t := Nat.zero_lt_of_lt hc.bits_lt
  rw [convertedLength, if_neg Bool.false_ne_true, ← hc.total, Nat.mul_comm, Nat.mul_add_div ht,
    Nat.div_eq_of_lt hc.bits_lt, Nat.add_zero]

/-- R125, R129: with padding, leftover bits make one group more. -/
theorem Regrouped.length_pad {f t n : Nat} {c : Conv} (hc : Regrouped f t n c) :
    (cbFinishPad t c).length = convertedLength true f t n := by
  have hlt := hc.bits_lt
  have ht : 0 < t := Nat.zero_lt_of_lt hlt
  rw [convertedLength, if_pos rfl, ← hc.total, Nat.add_assoc, Nat.mul_comm, Nat.mul_add_div ht, cbFinishPad]
  split
  case isTrue hb =>
    have : (c.bits + (t - 1)) / t = 1 := Nat.div_eq_of_lt_le (by omega) (by omega)
    simp [this]
  case isFalse hb =>
    have : (c.bits + (t - 1)) / t = 0 := Nat.div_eq_of_lt (by omega)
    simp [this]

theorem Regrouped.outFits_pad {f t n : Nat} {c : Conv} (hc : Regrouped f t n c) : OutFits t (cbFinishPad t c) := by
  unfold cbFinishPad
  split
  · exact hc.outFits.append_one (and_mask_lt _ t)
  · exact hc.outFits

/-- R125, R126: CBFINISH puts out the length of R129, in values of `t` bits. -/
theorem Regrouped.cbFinish {pad : Bool} {f t n : Nat} {c : Conv} {out : List Elem} (hc : Regrouped f t n c)
    (h : cbFinish pad f t c = some out) : out.length = convertedLength pad f t n ∧ OutFits t out := by
  cases pad with
  | true =>
    obtain rfl : cbFinishPad t c = out := Option.some.inj h
    exact ⟨hc.length_pad, hc.outFits_pad⟩
  | false =>
    obtain ⟨-, h⟩ := Option.ite_none_left_eq_some.mp (show cbFinishStrict f t c = some out from h)
    obtain ⟨-, h⟩ := Option.ite_none_left_eq_some.mp h
    obtain rfl : c.out = out := Option.some.inj h
    exact ⟨hc.length_strict, hc.outFits⟩

/-- R127: a conversion succeeds when its loop and CBFINISH do. -/
theorem convertbits_eq_some {d out : List Elem} {f t : Nat} {pad : Bool} :
    convertbits d f t pad = some out ↔ ∃ c, cbValues f t d cbStart = some c ∧ cbFinish pad f t c = some out := by
  unfold convertbits
  cases cbValues f t d cbStart <;> simp

/-- R127, R129: what CONVERTBITS delivers, in number and in width. -/
theorem convertbits_spec {d out : List Elem} {f t : Nat} {pad : Bool} (ht : 1 ≤ t)
    (h : convertbits d f t pad = some out) : out.length = convertedLength pad f t d.length ∧ OutFits t out := by
  obtain ⟨c, hc, hout⟩ := convertbits_eq_some.mp h
  have hreg : Regrouped f t (0 + d.length) c := (regrouped_cbStart f t ht).cbValues hc
  rw [Nat.zero_add] at hreg
  exact hreg.cbFinish hout

end Sys2Proof.Laws
end

section
/-! PROOF. The units' other shares: what B32DEC, WDEC and WENC answer when they succeed (R149 to R155, R170 to R177). -/

namespace Sys2Proof.Laws

open Sys2Proof.Machine

/-- R149 to R154: the tests after the separator, all passed. -/
theorem decodeAt_eq_some {s : List Elem} {pos : Nat} {hrp : List Code} {data : List Symbol} :
    decodeAt s pos = some (hrp, data) ↔
      1 ≤ pos ∧ pos ≤ 83 ∧ 6 ≤ s.length - pos - 1 ∧
      ∃ syms, charunmapAll (s.drop (pos + 1)) = some syms ∧ hrp = (s.take pos).map (BitVec.ofNat 8) ∧
        verify hrp syms = true ∧ data = syms.take (syms.length - 6) := by
  unfold decodeAt
  split_ifs with h1 h2 h3
  · exact iff_of_false (by simp) (by omega)
  · exact iff_of_false (by simp) (by omega)
  · exact iff_of_false (by simp) (by omega)
  · rw [← and_assoc, ← and_assoc, and_iff_right (by omega)]
    cases charunmapAll (s.drop (pos + 1)) with
    | none => simp
    | some syms =>
      simp only [Option.ite_none_right_eq_some, Option.some.injEq, Prod.mk.injEq, exists_eq_left']
      constructor
      · rintro ⟨hv, rfl, rfl⟩
        exact ⟨rfl, hv, rfl⟩
      · rintro ⟨rfl, hv, rfl⟩
        exact ⟨hv, rfl, rfl⟩

/-- R155: the string tests, all passed. -/
theorem b32dec_eq_some {str : List Elem} {hrp : List Code} {data : List Symbol} :
    b32dec str = some (hrp, data) ↔
      inRange str = true ∧ mixedCase str = false ∧
      ∃ pos, lastSeparator (str.map lower) = some pos ∧ decodeAt (str.map lower) pos = some (hrp, data) := by
  unfold b32dec
  dsimp only
  split_ifs with hr hm
  · simp [hm]
  · cases lastSeparator (str.map lower) <;> simp [hr, hm]
  · simp [hr]

/-- R170 to R172: the string decodes under the expected HRP, and its data symbols are a witness program. -/
theorem wdec_eq_some {h : List Code} {addr prog : List Elem} {ver : Symbol} :
    wdec h addr = some (ver, prog) ↔ ∃ data, b32dec addr = some (h, data) ∧ witnessOf data = some (ver, prog) := by
  unfold wdec
  cases b32dec addr with
  | none => simp
  | some res =>
    obtain ⟨hrp, data⟩ := res
    simp only [Option.ite_none_right_eq_some, Option.some.injEq, Prod.mk.injEq]
    constructor
    · rintro ⟨rfl, hw⟩
      exact ⟨data, ⟨rfl, rfl⟩, hw⟩
    · rintro ⟨_, ⟨rfl, rfl⟩, hw⟩
      exact ⟨rfl, hw⟩

/-- R173 to R175: the first symbol is the version, the others convert to the program. -/
theorem witnessOf_eq_some {data : List Symbol} {ver : Symbol} {prog : List Elem} :
    witnessOf data = some (ver, prog) ↔
      ∃ syms, data = ver :: syms ∧ convertbits (ofSymbols syms) 5 8 false = some prog ∧
        programLengthOk prog.length = true ∧ versionOk ver prog.length = true := by
  cases data with
  | nil => simp [witnessOf]
  | cons v syms =>
    unfold witnessOf
    dsimp only
    cases hc : convertbits (ofSymbols syms) 5 8 false with
    | none =>
      refine iff_of_false (by simp) ?_
      rintro ⟨_, ⟨rfl, rfl⟩, hc', -⟩
      simp [hc] at hc'
    | some out =>
      simp only [Option.ite_none_right_eq_some, Option.some.injEq, Prod.mk.injEq, Bool.and_eq_true]
      constructor
      · rintro ⟨hok, rfl, rfl⟩
        exact ⟨syms, rfl, hc, hok⟩
      · rintro ⟨_, ⟨rfl, rfl⟩, hc', hok⟩
        obtain rfl : out = prog := Option.some.inj (hc.symm.trans hc')
        exact ⟨hok, rfl, rfl⟩

/-- R176, R177: the string is made of the converted program, and the self-check accepts it. -/
theorem wenc_eq_some {h : List Code} {ver : Symbol} {prog str : List Elem} :
    wenc h ver prog = some str ↔
      ∃ syms, convertbits prog 8 5 true = some syms ∧ str = b32enc h (ver :: toSymbols syms) ∧
        (wdec h str).isSome = true := by
  unfold wenc
  cases convertbits prog 8 5 true with
  | none => simp
  | some syms =>
    simp only [Option.some.injEq, exists_eq_left']
    cases hw : wdec h (b32enc h (ver :: toSymbols syms)) with
    | none =>
      refine iff_of_false (by simp) ?_
      rintro ⟨rfl, hs⟩
      simp [hw] at hs
    | some res =>
      simp only [Option.some.injEq]
      constructor
      · rintro rfl
        exact ⟨rfl, by simp [hw]⟩
      · rintro ⟨rfl, -⟩
        rfl

/-- R155: neither of B32DEC's outputs is longer than its input. -/
theorem b32dec_length_le {str : List Elem} {hrp : List Code} {data : List Symbol} (h : b32dec str = some (hrp, data)) :
    hrp.length ≤ str.length ∧ data.length ≤ str.length := by
  obtain ⟨-, -, pos, -, hat⟩ := b32dec_eq_some.mp h
  obtain ⟨-, -, -, syms, hsyms, rfl, -, rfl⟩ := decodeAt_eq_some.mp hat
  have hlen := charunmapAll_length _ _ hsyms
  simp only [List.length_drop, List.length_map] at hlen
  simp only [List.length_map, List.length_take]
  omega

theorem charmap_lt (x : Symbol) : charmap x < 2 ^ 8 := by
  revert x
  decide

/-- R144: B32ENC puts out characters. -/
theorem b32enc_lt (h : List Code) (data : List Symbol) : OutFits 8 (b32enc h data) := by
  intro e he
  simp only [b32enc, ofCodes, List.mem_append, List.mem_map, List.mem_singleton] at he
  obtain (⟨c, -, rfl⟩ | rfl) | ⟨x, -, rfl⟩ := he
  · exact c.isLt
  · decide
  · exact charmap_lt x

theorem ofSymbols_lt (xs : List Symbol) : OutFits 5 (ofSymbols xs) := by
  intro e he
  obtain ⟨x, -, rfl⟩ := List.mem_map.mp he
  exact x.isLt

end Sys2Proof.Laws
end

section
/-! PROOF. Every step keeps every register and sequence within its width (Sys2Proof/Safety.lean). -/

namespace Sys2Proof.Laws

open Sys2Proof.Machine

/-- Values of a width that every element has room for fit the elements (R6: `ELEM_W >= CONV_WMAX`). -/
theorem OutFits.elemsFit {t : Nat} {out : List Elem} (h : OutFits t out) (ht : t ≤ Config.convWmax) : elemsFit out :=
  fun e he => (h e he).trans_le (Nat.pow_le_pow_right (by decide) (ht.trans elemW_lower))

theorem ofSymbols_elemsFit (xs : List Symbol) : elemsFit (ofSymbols xs) :=
  (ofSymbols_lt xs).elemsFit (le_trans (by decide) convWmax_lower)

/-- What a command delivers is within the limits of the output sequences (R6, R40). -/
structure ResultsFit (res : Results) : Prop where
  o_elems : ∀ out, res.o = some out → elemsFit out
  o_length : ∀ out, res.o = some out → fitsSeq out.length = true
  oh_length : ∀ out, res.oh = some out → fitsSeq out.length = true

theorem resultsFit_empty : ResultsFit {} := ⟨nofun, nofun, nofun⟩

/-- A command that delivers `O` alone, or beside `R` and `V`, which their types bound. -/
theorem resultsFit_o {out : List Elem} (he : elemsFit out) (hl : fitsSeq out.length = true) (r : Option Chk)
    (v : Option (BitVec 5)) : ResultsFit { o := some out, r := r, v := v } where
  o_elems := by rintro _ ⟨⟩; exact he
  o_length := by rintro _ ⟨⟩; exact hl
  oh_length := nofun

/-- A refused command delivers nothing, so the limits may be shown with every reason for a refusal absent (R193). -/
theorem unlessRefused_resultsFit {why : List (Option RefuseReason)} {e : Ending}
    (h : (∀ w ∈ why, w = none) → ResultsFit e.results) : ResultsFit (unlessRefused why e).results := by
  rcases unlessRefused_cases why e with ⟨r, -, hr⟩ | ⟨hnone, he⟩
  · rw [hr]
    exact resultsFit_empty
  · rw [he]
    exact h hnone

theorem expandCommand_fits (h : List Code) : ResultsFit (expandCommand h).results := by
  refine unlessRefused_resultsFit fun hnone => ?_
  obtain ⟨-, hout⟩ : fitsSeq h.length = true ∧ fitsSeq (2 * h.length + 1) = true := by
    simpa [lengthRefusal_eq_none] using hnone
  exact resultsFit_o (ofSymbols_elemsFit _) (by rwa [ofSymbols_length, expand_length]) _ _

theorem createCommand_fits (h : List Code) (d : List Elem) : ResultsFit (createCommand h d).results :=
  unlessRefused_resultsFit fun _ =>
    resultsFit_o (ofSymbols_elemsFit _) rfl _ _

theorem convertbitsCommand_fits (pad : Bool) (f t : Nat) (d : List Elem) :
    ResultsFit (convertbitsCommand pad f t d).results := by
  refine unlessRefused_resultsFit fun hnone => ?_
  obtain ⟨⟨-, hwidth⟩, -, hfit⟩ : (legalWidth f = true ∧ legalWidth t = true) ∧ fitsSeq d.length = true ∧
      fitsSeq (convertedLength pad f t d.length) = true := by
    simpa [widthRefusal_eq_none, lengthRefusal_eq_none] using hnone
  obtain ⟨ht, htw⟩ := (legalWidth_iff t).mp hwidth
  split
  case h_1 out hout =>
    obtain ⟨hlen, hfits⟩ := convertbits_spec ht hout
    exact resultsFit_o (hfits.elemsFit htw) (by rwa [hlen]) _ _
  case h_2 => exact resultsFit_empty

theorem b32encCommand_fits (h : List Code) (d : List Elem) : ResultsFit (b32encCommand h d).results := by
  refine unlessRefused_resultsFit fun hnone => ?_
  obtain ⟨-, -, -, hout⟩ : areSymbols d = true ∧ fitsSeq h.length = true ∧ fitsSeq d.length = true ∧
      fitsSeq (encodedLength h.length d.length) = true := by
    simpa [symbolRefusal_eq_none, lengthRefusal_eq_none] using hnone
  exact resultsFit_o ((b32enc_lt _ _).elemsFit convWmax_lower) (by rwa [b32enc_length, toSymbols_length]) _ _

theorem b32decCommand_fits (d : List Elem) : ResultsFit (b32decCommand d).results := by
  refine unlessRefused_resultsFit fun hnone => ?_
  have hd : fitsSeq d.length = true := by simpa [lengthRefusal_eq_none] using hnone
  split
  case h_1 hrp data hdec =>
    obtain ⟨hhrp, hdata⟩ := b32dec_length_le hdec
    refine ⟨?_, ?_, ?_⟩ <;> rintro _ ⟨⟩
    · exact ofSymbols_elemsFit data
    · exact fitsSeq_mono (by rwa [ofSymbols_length]) hd
    · exact fitsSeq_mono hhrp hd
  case h_2 => exact resultsFit_empty

theorem wencCommand_fits (ver : Symbol) (h : List Code) (d : List Elem) :
    ResultsFit (wencCommand ver h d).results := by
  refine unlessRefused_resultsFit fun hnone => ?_
  obtain ⟨-, -, hout⟩ : fitsSeq h.length = true ∧ fitsSeq d.length = true ∧
      fitsSeq (encodedLength h.length (1 + convertedLength true 8 5 d.length)) = true := by
    simpa [lengthRefusal_eq_none] using hnone
  split
  case h_1 str hstr =>
    obtain ⟨syms, hsyms, rfl, -⟩ := wenc_eq_some.mp hstr
    refine resultsFit_o ((b32enc_lt _ _).elemsFit convWmax_lower) ?_ _ _
    rwa [b32enc_length, List.length_cons, toSymbols_length, (convertbits_spec (by decide) hsyms).1, Nat.add_comm _ 1]
  case h_2 => exact resultsFit_empty

/-- R174: the program of an accepted address has at most 40 bytes, which fit every `SEQ_MAX`. -/
theorem wdecCommand_fits (h : List Code) (d : List Elem) : ResultsFit (wdecCommand h d).results := by
  refine unlessRefused_resultsFit fun _ => ?_
  split
  case h_1 ver prog hdec =>
    obtain ⟨data, -, hprog⟩ := wdec_eq_some.mp hdec
    obtain ⟨syms, -, hconv, hlen, -⟩ := witnessOf_eq_some.mp hprog
    simp only [programLengthOk, Bool.and_eq_true, decide_eq_true_eq] at hlen
    exact resultsFit_o ((convertbits_spec (by decide) hconv).2.elemsFit convWmax_lower)
      (fitsSeq_mono hlen.2 (by decide)) _ _
  case h_2 => exact resultsFit_empty

/-- Whatever a command delivers is within the limits of the output sequences. -/
theorem endingOf_fits (i : Instr) (h : List Code) (d : List Elem) : ResultsFit (endingOf i h d).results := by
  cases i with
  | expand => exact expandCommand_fits h
  | polymod => exact unlessRefused_resultsFit fun _ => ⟨nofun, nofun, nofun⟩
  | verify => exact unlessRefused_resultsFit fun _ => ⟨nofun, nofun, nofun⟩
  | create => exact createCommand_fits h d
  | convertbits pad f t => exact convertbitsCommand_fits pad f.toNat t.toNat d
  | b32enc => exact b32encCommand_fits h d
  | b32dec => exact b32decCommand_fits d
  | wenc ver => exact wencCommand_fits ver h d
  | wdec => exact wdecCommand_fits h d

/-- The host presents the next command; its sequence fits because the list's did. -/
theorem present_sound {s : State} (hs : s.Sound) {w : Word} {h : List Code} {d : List Elem} {rest : List HostAct}
    (hp : s.pending = .command w h d :: rest) : (s.present w h d rest).Sound where
  acc_width := hs.acc_width
  bits_range := hs.bits_range
  o_elems := hs.o_elems
  o_length := hs.o_length
  oh_length := hs.oh_length
  d_elems := hs.pending_elems (.command w h d) (by simp [hp])
  pending_elems := fun a ha => hs.pending_elems a (by rw [hp]; exact List.mem_cons_of_mem _ ha)

theorem resetBlock_sound {s : State} (hs : s.Sound) {rest : List HostAct} (hp : s.pending = .reset :: rest) :
    (s.resetBlock rest).Sound where
  acc_width := freeAcc_lt _
  bits_range := freeBits_lt _
  o_elems := freeO_elems _
  o_length := clipSeq_fits _
  oh_length := clipSeq_fits _
  d_elems := hs.d_elems
  pending_elems := fun a ha => hs.pending_elems a (by rw [hp]; exact List.mem_cons_of_mem _ ha)

theorem leaveUnits_sound {s : State} (hs : s.Sound) (u : Units) : (s.leaveUnits u).Sound where
  acc_width := by
    rw [State.leaveUnits_acc]
    split
    · exact freeAcc_lt _
    · exact hs.acc_width
  bits_range := by
    rw [State.leaveUnits_bits]
    split
    · exact freeBits_lt _
    · exact hs.bits_range
  o_elems := hs.o_elems
  o_length := hs.o_length
  oh_length := hs.oh_length
  d_elems := hs.d_elems
  pending_elems := hs.pending_elems

/-- The record is written: each field holds what is delivered, or a free value cut to the same limits (R27). -/
theorem finish_sound {s : State} (hs : s.Sound) {e : Ending} (he : ResultsFit e.results) : (s.finish e).Sound where
  acc_width := hs.acc_width
  bits_range := hs.bits_range
  o_elems := by
    rw [State.finish_o]
    cases ho : e.results.o with
    | none => exact freeO_elems _
    | some out => exact he.o_elems out ho
  o_length := by
    rw [State.finish_o]
    cases ho : e.results.o with
    | none => exact clipSeq_fits _
    | some out => exact he.o_length out ho
  oh_length := by
    rw [State.finish_oh]
    cases ho : e.results.oh with
    | none => exact clipSeq_fits _
    | some out => exact he.oh_length out ho
  d_elems := hs.d_elems
  pending_elems := hs.pending_elems

theorem complete_sound {s : State} (hs : s.Sound) (u : Units) {e : Ending} (he : ResultsFit e.results) :
    (s.complete u e).Sound := by
  cases e with
  | ok res => exact finish_sound (leaveUnits_sound hs u) he
  | fail => exact finish_sound (leaveUnits_sound hs u) he
  | refuse why => exact finish_sound hs he

/-- Settles O19: the four cases of a step, each by the lemma that its operation keeps the widths. -/
theorem everyStepKeepsSound : Obligations.EveryStepKeepsSound := by
  intro s t hs hstep
  obtain ⟨-, h⟩ | ⟨rest, hp, h⟩ | ⟨w, hc, d, rest, i, hp, -, h⟩ | ⟨w, hc, d, rest, why, hp, -, h⟩ := step_cases s
  all_goals
    rw [h] at hstep
    injection hstep with hst
    subst hst
  · exact hs
  · exact resetBlock_sound hs hp
  · exact complete_sound (present_sound hs hp) _ (endingOf_fits i hc d)
  · exact finish_sound (present_sound hs hp) resultsFit_empty

end Sys2Proof.Laws
end

section
/-! PROOF. What a command leaves alone and what it delivers: the frame of `exec`, the table of R27, and the ranges of the
delivered values (10_state.md). -/

namespace Sys2Proof.Laws

open Sys2Proof.Machine

/-! ## The answer of a step and of a command -/

/-- R48, R51: the step at a command that decodes runs it on the presented inputs. -/
theorem step_of_decode_ok {s : State} {w : Word} {h : List Code} {d : List Elem} {rest : List HostAct} {i : Instr}
    (hp : s.pending = .command w h d :: rest) (hw : decode w = .ok i) : step s = exec i (s.present w h d rest) := by
  simp only [step, hp, hw]

/-- R63, R193: the step at a word that is no command refuses it. -/
theorem step_of_decode_error {s : State} {w : Word} {h : List Code} {d : List Elem} {rest : List HostAct}
    {why : DecodeError} (hp : s.pending = .command w h d :: rest) (hw : decode w = .error why) :
    step s = .next ((s.present w h d rest).refuseWord why) := by
  simp only [step, hp, hw]

theorem exec_eq_next {i : Instr} {s t : State} (h : exec i s = .next t) :
    t = s.complete (unitsOf i) (endingOf i s.h s.d) := by
  rw [exec_eq] at h
  injection h with h
  exact h.symm

/-- R21: the units of the model are those of the spec's register table. -/
theorem unitsOf_u1 (i : Instr) : (unitsOf i).u1 = Ref.runsChk i := by cases i <;> rfl

/-- R23, R24: likewise for `ACC` and `BITS`. -/
theorem unitsOf_u2 (i : Instr) : (unitsOf i).u2 = Ref.runsAcc i := by cases i <;> rfl

theorem complete_keepsInputs (s : State) (u : Units) (e : Ending) : Ref.KeepsInputs s (s.complete u e) := by
  obtain ⟨hcmd, hh, hd, hpending, -⟩ := complete_spec s u e
  exact ⟨hcmd, hh, hd, hpending⟩

/-- R193: a refused command touches no working register. -/
theorem complete_keepsRegisters {s : State} {u : Units} {e : Ending} (he : e.status = .refused) :
    Ref.KeepsRegisters s (s.complete u e) := by
  simp [Ref.KeepsRegisters, complete_chk, complete_acc, complete_bits, he]

/-- R192, R195: only `ok` carries results. -/
theorem results_of_status_ne_ok {e : Ending} (he : e.status ≠ .ok) : e.results = {} := by
  cases e with
  | ok res => exact absurd rfl he
  | fail => rfl
  | refuse why => rfl

theorem status_eq_ok {e : Ending} : e.status = .ok ↔ ∃ res, e = .ok res := by
  cases e <;> simp [Ending.status]

theorem complete_deliversNothing {s : State} {u : Units} {e : Ending} (he : e.status ≠ .ok) :
    Ref.DeliversNothing s (s.complete u e) := by
  obtain ⟨-, -, -, -, -, -, ho, hoh, hr, hv⟩ := complete_spec s u e
  rw [results_of_status_ne_ok he] at ho hoh hr hv
  exact ⟨ho, hoh, hr, hv⟩

/-! ## What a command that ends `ok` delivers -/

theorem unlessRefused_eq_ok {why : List (Option RefuseReason)} {e : Ending} {res : Results}
    (h : unlessRefused why e = .ok res) : (∀ w ∈ why, w = none) ∧ e = .ok res := by
  obtain ⟨r, -, hr⟩ | ⟨hnone, he⟩ := unlessRefused_cases why e
  · rw [hr] at h
    cases h
  · exact ⟨hnone, he.symm.trans h⟩

theorem expandCommand_eq_ok {h : List Code} {res : Results} (hok : expandCommand h = .ok res) :
    res = { o := some (ofSymbols (expand h)) } :=
  (Ending.ok.inj (unlessRefused_eq_ok hok).2).symm

theorem polymodCommand_eq_ok {d : List Elem} {res : Results} (hok : polymodCommand d = .ok res) :
    res = { r := some (polymod (toSymbols d)) } :=
  (Ending.ok.inj (unlessRefused_eq_ok hok).2).symm

theorem verifyCommand_eq_ok {h : List Code} {d : List Elem} {res : Results} (hok : verifyCommand h d = .ok res) :
    res = { v := some (if verify h (toSymbols d) then 1#5 else 0#5) } :=
  (Ending.ok.inj (unlessRefused_eq_ok hok).2).symm

theorem createCommand_eq_ok {h : List Code} {d : List Elem} {res : Results} (hok : createCommand h d = .ok res) :
    res = { o := some (ofSymbols (create h (toSymbols d))) } :=
  (Ending.ok.inj (unlessRefused_eq_ok hok).2).symm

theorem convertbitsCommand_eq_ok {pad : Bool} {f t : Nat} {d : List Elem} {res : Results}
    (hok : convertbitsCommand pad f t d = .ok res) :
    1 ≤ t ∧ ∃ out, convertbits d f t pad = some out ∧ res = { o := some out } := by
  obtain ⟨hnone, hend⟩ := unlessRefused_eq_ok hok
  obtain ⟨-, ht⟩ := (widthRefusal_eq_none f t).mp (hnone _ (by simp))
  refine ⟨((legalWidth_iff t).mp ht).1, ?_⟩
  split at hend
  case h_1 out hout => exact ⟨out, hout, (Ending.ok.inj hend).symm⟩
  case h_2 => cases hend

theorem b32encCommand_eq_ok {h : List Code} {d : List Elem} {res : Results} (hok : b32encCommand h d = .ok res) :
    res = { o := some (b32enc h (toSymbols d)) } :=
  (Ending.ok.inj (unlessRefused_eq_ok hok).2).symm

theorem b32decCommand_eq_ok {d : List Elem} {res : Results} (hok : b32decCommand d = .ok res) :
    ∃ hrp data, b32dec d = some (hrp, data) ∧ res = { oh := some hrp, o := some (ofSymbols data) } := by
  have hend := (unlessRefused_eq_ok hok).2
  split at hend
  case h_1 hrp data hdec => exact ⟨hrp, data, hdec, (Ending.ok.inj hend).symm⟩
  case h_2 => cases hend

theorem wencCommand_eq_ok {ver : Symbol} {h : List Code} {d : List Elem} {res : Results}
    (hok : wencCommand ver h d = .ok res) : ∃ str, wenc h ver d = some str ∧ res = { o := some str } := by
  have hend := (unlessRefused_eq_ok hok).2
  split at hend
  case h_1 str hstr => exact ⟨str, hstr, (Ending.ok.inj hend).symm⟩
  case h_2 => cases hend

theorem wdecCommand_eq_ok {h : List Code} {d : List Elem} {res : Results} (hok : wdecCommand h d = .ok res) :
    ∃ ver prog, wdec h d = some (ver, prog) ∧ res = { v := some ver, o := some prog } := by
  have hend := (unlessRefused_eq_ok hok).2
  split at hend
  case h_1 ver prog hdec => exact ⟨ver, prog, hdec, (Ending.ok.inj hend).symm⟩
  case h_2 => cases hend

/-- The fields `res` holds are those the table of R27 lists for the command `i`. -/
structure FollowsTable (i : Instr) (res : Results) : Prop where
  o_iff : res.o.isSome = Ref.deliversO i
  oh_iff : res.oh.isSome = Ref.deliversOH i
  r_iff : res.r.isSome = Ref.deliversR i
  v_iff : res.v.isSome = Ref.deliversV i

/-- R27: a command that ends `ok` delivers exactly its fields. -/
theorem followsTable_of_ok {i : Instr} {h : List Code} {d : List Elem} {res : Results}
    (hok : endingOf i h d = .ok res) : FollowsTable i res := by
  cases i with
  | expand =>
    obtain rfl := expandCommand_eq_ok hok
    exact ⟨rfl, rfl, rfl, rfl⟩
  | polymod =>
    obtain rfl := polymodCommand_eq_ok hok
    exact ⟨rfl, rfl, rfl, rfl⟩
  | verify =>
    obtain rfl := verifyCommand_eq_ok hok
    exact ⟨rfl, rfl, rfl, rfl⟩
  | create =>
    obtain rfl := createCommand_eq_ok hok
    exact ⟨rfl, rfl, rfl, rfl⟩
  | convertbits pad f t =>
    obtain ⟨-, out, -, rfl⟩ := convertbitsCommand_eq_ok hok
    exact ⟨rfl, rfl, rfl, rfl⟩
  | b32enc =>
    obtain rfl := b32encCommand_eq_ok hok
    exact ⟨rfl, rfl, rfl, rfl⟩
  | b32dec =>
    obtain ⟨hrp, data, -, rfl⟩ := b32decCommand_eq_ok hok
    exact ⟨rfl, rfl, rfl, rfl⟩
  | wenc ver =>
    obtain ⟨str, -, rfl⟩ := wencCommand_eq_ok hok
    exact ⟨rfl, rfl, rfl, rfl⟩
  | wdec =>
    obtain ⟨ver, prog, -, rfl⟩ := wdecCommand_eq_ok hok
    exact ⟨rfl, rfl, rfl, rfl⟩

/-- A field that is delivered does not show the free value that would stand in its place. -/
theorem getD_congr_of_isSome {α : Type} {x : Option α} (hx : x.isSome = true) (a b : α) : x.getD a = x.getD b := by
  cases x with
  | none => cases hx
  | some y => rfl

/-- A field that is not delivered is the free value. -/
theorem getD_of_isSome_eq_false {α : Type} {x : Option α} (hx : x.isSome = false) (a : α) : x.getD a = a := by
  cases x with
  | none => rfl
  | some y => cases hx

/-- R20, R27: the delivered fields after an `ok` command are the same from whatever state it ran. -/
theorem complete_delivered_eq {i : Instr} {res : Results} (hres : FollowsTable i res) (s₁ s₂ : State) (u₁ u₂ : Units) :
    (Ref.deliversO i = true → (s₁.complete u₁ (.ok res)).o = (s₂.complete u₂ (.ok res)).o) ∧
    (Ref.deliversOH i = true → (s₁.complete u₁ (.ok res)).oh = (s₂.complete u₂ (.ok res)).oh) ∧
    (Ref.deliversR i = true → (s₁.complete u₁ (.ok res)).r = (s₂.complete u₂ (.ok res)).r) ∧
    (Ref.deliversV i = true → (s₁.complete u₁ (.ok res)).v = (s₂.complete u₂ (.ok res)).v) :=
  ⟨fun h => getD_congr_of_isSome (hres.o_iff.trans h) _ _, fun h => getD_congr_of_isSome (hres.oh_iff.trans h) _ _,
    fun h => getD_congr_of_isSome (hres.r_iff.trans h) _ _, fun h => getD_congr_of_isSome (hres.v_iff.trans h) _ _⟩

/-- R27: the fields an `ok` command does not deliver are free values. -/
theorem complete_undelivered_free {i : Instr} {res : Results} (hres : FollowsTable i res) (s : State) (u : Units) :
    (Ref.deliversO i = false → (s.complete u (.ok res)).o = freeO s.freeIx) ∧
    (Ref.deliversOH i = false → (s.complete u (.ok res)).oh = freeOH s.freeIx) ∧
    (Ref.deliversR i = false → (s.complete u (.ok res)).r = Config.freeR s.freeIx) ∧
    (Ref.deliversV i = false → (s.complete u (.ok res)).v = Config.freeV s.freeIx) :=
  ⟨fun h => getD_of_isSome_eq_false (hres.o_iff.trans h) _, fun h => getD_of_isSome_eq_false (hres.oh_iff.trans h) _,
    fun h => getD_of_isSome_eq_false (hres.r_iff.trans h) _, fun h => getD_of_isSome_eq_false (hres.v_iff.trans h) _⟩

/-! ## The frames and the delivered fields, settled -/

/-- Settles O11: the ending is a function of the command and the inputs (`exec_eq`), and an `ok` ending holds every field
the command delivers, so no free value shows in one. -/
theorem resultDependsOnTheCommandAlone : Obligations.ResultDependsOnTheCommandAlone := by
  intro s₁ s₂ w h d rest₁ rest₂ hp₁ hp₂
  cases hw : decode w with
  | error why =>
    refine ⟨_, _, step_of_decode_error hp₁ hw, step_of_decode_error hp₂ hw, rfl, ?_⟩
    intro hok
    cases hok
  | ok i =>
    refine ⟨_, _, (step_of_decode_ok hp₁ hw).trans (exec_eq i _), (step_of_decode_ok hp₂ hw).trans (exec_eq i _), ?_⟩
    simp only [State.present_h, State.present_d]
    obtain ⟨-, -, -, -, -, hst₁, -⟩ := complete_spec (s₁.present w h d rest₁) (unitsOf i) (endingOf i h d)
    obtain ⟨-, -, -, -, -, hst₂, -⟩ := complete_spec (s₂.present w h d rest₂) (unitsOf i) (endingOf i h d)
    refine ⟨hst₁.trans hst₂.symm, ?_⟩
    rintro hok _ ⟨⟩
    obtain ⟨res, hres⟩ := status_eq_ok.mp (hst₁.symm.trans hok)
    rw [hres]
    exact complete_delivered_eq (followsTable_of_ok hres) _ _ _ _

/-- Settles O13: every command is a completion, which leaves the host's side alone. -/
theorem inputsAreNeverWritten : Obligations.InputsAreNeverWritten := by
  intro i s t hexec
  obtain rfl := exec_eq_next hexec
  exact complete_keepsInputs _ _ _

/-- Settles O14: a completion writes the registers of the command's units only, and none when it refuses. -/
theorem workingRegistersChangeOnlyWhereRun : Obligations.WorkingRegistersChangeOnlyWhereRun := by
  intro i s t hexec
  obtain rfl := exec_eq_next hexec
  refine ⟨fun hchk => ?_, fun hacc => ?_, fun hst => ?_⟩
  · simp [complete_chk, unitsOf_u1, hchk]
  · simp [complete_acc, complete_bits, unitsOf_u2, hacc]
  · obtain ⟨-, -, -, -, -, hstatus, -⟩ := complete_spec s (unitsOf i) (endingOf i s.h s.d)
    exact complete_keepsRegisters (hstatus.symm.trans hst)

/-- Settles O15: an `ok` ending holds exactly the fields of the command's row of R27, any other ending none. -/
theorem undeliveredFieldsAreFree : Obligations.UndeliveredFieldsAreFree := by
  intro i s t hexec
  obtain rfl := exec_eq_next hexec
  obtain ⟨-, -, -, -, -, hst, -⟩ := complete_spec s (unitsOf i) (endingOf i s.h s.d)
  by_cases hok : (endingOf i s.h s.d).status = .ok
  · refine ⟨fun hne => absurd (hst.trans hok) hne, ?_⟩
    obtain ⟨res, hres⟩ := status_eq_ok.mp hok
    rw [hres]
    exact complete_undelivered_free (followsTable_of_ok hres) _ _
  · obtain ⟨ho, hoh, hr, hv⟩ := complete_deliversNothing (s := s) (u := unitsOf i) hok
    exact ⟨fun _ => ⟨ho, hoh, hr, hv⟩, fun _ => ho, fun _ => hoh, fun _ => hr, fun _ => hv⟩

/-- Settles O7: the case of a command word that decodes. -/
theorem stepRunsTheDecodedCommand : Obligations.StepRunsTheDecodedCommand :=
  fun _ _ _ _ _ _ hp hw => step_of_decode_ok hp hw

/-- Settles O20: every number is 0 and every sequence empty. -/
theorem resetIsSound : Obligations.ResetIsSound where
  acc_width := Nat.two_pow_pos _
  bits_range := Nat.mul_pos two_pos (Nat.lt_of_lt_of_le (by decide) convWmax_lower)
  o_elems := fun _ he => absurd he List.not_mem_nil
  o_length := rfl
  oh_length := rfl
  d_elems := fun _ he => absurd he List.not_mem_nil
  pending_elems := fun _ ha => absurd ha List.not_mem_nil

/-! ## The ranges of the delivered values -/

theorem OutFits.le {t : Nat} {out : List Elem} (h : OutFits t out) : ∀ e ∈ out, e ≤ 2 ^ t - 1 :=
  fun e he => Nat.le_sub_one_of_lt (h e he)

/-- R71, R142: the machine's LOWER is the spec's lowercase form. -/
theorem lower_eq_toLower (c : Nat) : lower c = Ref.toLower c := by
  simp [lower, isUpper, Ref.toLower]

/-- R71, R145: the lowercase form of a character of the range is in the range, and no uppercase letter. -/
theorem toLower_of_inRange {c : Nat} (h : 33 ≤ c ∧ c ≤ 126) :
    33 ≤ Ref.toLower c ∧ Ref.toLower c ≤ 126 ∧ ¬ Ref.Upper (Ref.toLower c) := by
  unfold Ref.toLower Ref.Upper
  split <;> omega

/-- R149, R155: the HRP of a decoded string has the length and the characters the spec allows. -/
theorem b32dec_hrpOk {str : List Elem} {hrp : List Code} {data : List Symbol} (h : b32dec str = some (hrp, data)) :
    Ref.HrpOk hrp := by
  obtain ⟨hrange, -, pos, -, hat⟩ := b32dec_eq_some.mp h
  obtain ⟨hpos, hpos', hlen, -, -, rfl, -⟩ := decodeAt_eq_some.mp hat
  have htake : ((str.map lower).take pos).length = pos := List.length_take_of_le (by omega)
  refine ⟨by rwa [List.length_map, htake], by rwa [List.length_map, htake], ?_⟩
  intro c hc
  obtain ⟨x, hx, rfl⟩ := List.mem_map.mp hc
  obtain ⟨y, hy, rfl⟩ := List.mem_map.mp (List.mem_of_mem_take hx)
  have hy' : 33 ≤ y ∧ y ≤ 126 := by simpa using List.all_eq_true.mp hrange y hy
  obtain ⟨hlo, hhi, hup⟩ := toLower_of_inRange hy'
  have hcode : (BitVec.ofNat 8 (lower y)).toNat = Ref.toLower y := by
    rw [lower_eq_toLower]
    exact Nat.mod_eq_of_lt (by omega)
  rw [hcode]
  exact ⟨hlo, hhi, hup⟩

/-- R178: the length of the string WENC makes. -/
theorem wenc_length {h : List Code} {ver : Symbol} {prog str : List Elem} (hstr : wenc h ver prog = some str) :
    str.length = h.length + 1 + 1 + (8 * prog.length + 4) / 5 + 6 := by
  obtain ⟨syms, hsyms, rfl, -⟩ := wenc_eq_some.mp hstr
  have hlen : syms.length = (prog.length * 8 + 4) / 5 := (convertbits_spec (by decide) hsyms).1
  rw [b32enc_length, List.length_cons, toSymbols_length, hlen, encodedLength, Nat.mul_comm 8]
  omega

/-- R170, R174, R175: the version, the length and the bytes of a decoded program. -/
theorem wdec_ranges {h : List Code} {addr prog : List Elem} {ver : Symbol} (hdec : wdec h addr = some (ver, prog)) :
    ver.toNat ≤ 16 ∧ 2 ≤ prog.length ∧ prog.length ≤ 40 ∧ ∀ e ∈ prog, e ≤ 255 := by
  obtain ⟨data, -, hprog⟩ := wdec_eq_some.mp hdec
  obtain ⟨syms, -, hconv, hlen, hver⟩ := witnessOf_eq_some.mp hprog
  simp only [programLengthOk, versionOk, Bool.and_eq_true, decide_eq_true_eq] at hlen hver
  exact ⟨hver.1, hlen.1, hlen.2, (convertbits_spec (by decide) hconv).2.le⟩

/-- Settles O21: what an `ok` command delivers, command by command, by the lemma about its function. -/
theorem deliveredValuesAreInRange : Obligations.DeliveredValuesAreInRange := by
  intro i s t hexec hok
  obtain rfl := exec_eq_next hexec
  obtain ⟨-, -, -, -, -, hst, -⟩ := complete_spec s (unitsOf i) (endingOf i s.h s.d)
  obtain ⟨res, hres⟩ := status_eq_ok.mp (hst.symm.trans hok)
  rw [hres]
  cases i with
  | expand =>
    obtain rfl := expandCommand_eq_ok hres
    exact ⟨(ofSymbols_length _).trans (expand_length _), (ofSymbols_lt _).le⟩
  | polymod => exact BitVec.isLt _
  | verify =>
    obtain rfl := verifyCommand_eq_ok hres
    exact (ite_eq_or_eq _ _ _).symm
  | create =>
    obtain rfl := createCommand_eq_ok hres
    exact ⟨rfl, (ofSymbols_lt _).le⟩
  | convertbits pad f u =>
    obtain ⟨hu, out, hout, rfl⟩ := convertbitsCommand_eq_ok hres
    obtain ⟨hlen, hfits⟩ := convertbits_spec hu hout
    exact ⟨hlen, hfits.le⟩
  | b32enc =>
    obtain rfl := b32encCommand_eq_ok hres
    exact (b32enc_length _ _).trans (by rw [toSymbols_length, encodedLength])
  | b32dec =>
    obtain ⟨hrp, data, hdec, rfl⟩ := b32decCommand_eq_ok hres
    obtain ⟨hpos, hle, hchars⟩ := b32dec_hrpOk hdec
    exact ⟨hpos, hle, hchars, (ofSymbols_lt data).le⟩
  | wenc ver =>
    obtain ⟨str, hstr, rfl⟩ := wencCommand_eq_ok hres
    exact wenc_length hstr
  | wdec =>
    obtain ⟨ver, prog, hdec, rfl⟩ := wdecCommand_eq_ok hres
    exact wdec_ranges hdec

end Sys2Proof.Laws
end

section
/-! PROOF. The host's list of acts: one act a step, in order (R51, R227). -/

namespace Sys2Proof.Laws

open Sys2Proof.Machine

/-- R190, R227: a step ends in a next state and takes one act off the host's list. -/
theorem step_pending (s : State) : ∃ t, step s = .next t ∧ t.pending = s.pending.tail := by
  obtain ⟨hp, h⟩ | ⟨rest, hp, h⟩ | ⟨w, hc, d, rest, i, hp, -, h⟩ | ⟨w, hc, d, rest, why, hp, -, h⟩ := step_cases s
  · exact ⟨s, h, by rw [hp, List.tail_nil]⟩
  · exact ⟨_, h, by rw [hp]; rfl⟩
  · obtain ⟨-, -, -, hpending⟩ := complete_keepsInputs (s.present w hc d rest) (unitsOf i) (endingOf i hc d)
    exact ⟨_, h, by rw [hpending, hp]; rfl⟩
  · exact ⟨_, h, by rw [hp]; rfl⟩

/-- Settles O10, by induction on the number of steps: the first step takes the head of the list, the others serve its
tail. -/
theorem everyHostActIsServed : Obligations.EveryHostActIsServed := by
  intro s k hk
  induction k generalizing s with
  | zero => exact ⟨s, rfl, rfl⟩
  | succ k ih =>
    obtain ⟨t, hstep, htail⟩ := step_pending s
    obtain ⟨u, hrun, hdrop⟩ := ih t (by rw [htail, List.length_tail]; omega)
    exact ⟨u, (run_succ k s t hstep).trans hrun, by rw [hdrop, htail, List.drop_tail]⟩

end Sys2Proof.Laws
end

section
/-! PROOF. Unit U2 against the bit stream of R129: the digits of a value, the stream a conversion carries, and what
CBFINISH makes of its end. -/

namespace Sys2Proof.Laws

open Sys2Proof.Machine

/-! ## Digits and numbers (R43) -/

@[simp] theorem digits_length (w v : Nat) : (Ref.digits w v).length = w := by simp [Ref.digits]

@[simp] theorem digits_zero (v : Nat) : Ref.digits 0 v = [] := rfl

/-- The lowest digit stands last. -/
theorem digits_succ (w v : Nat) : Ref.digits (w + 1) v = Ref.digits w (v / 2) ++ [v.testBit 0] := by
  rw [Ref.digits, List.range_succ, List.map_append]
  congr 1
  · refine List.map_congr_left fun i hi => ?_
    have hi : i < w := List.mem_range.mp hi
    rw [← Nat.testBit_succ]
    congr 1
    omega
  · simp

/-- The low `b` digits of a value stand after the others. -/
theorem digits_add (a b v : Nat) : Ref.digits (a + b) v = Ref.digits a (v >>> b) ++ Ref.digits b v := by
  induction b generalizing v with
  | zero => simp
  | succ b ih =>
    rw [← Nat.add_assoc, digits_succ, digits_succ, ih, List.append_assoc, Nat.shiftRight_succ_inside]

/-- Equal low digits are all that `digits` sees. -/
theorem digits_congr {w x y : Nat} (h : ∀ i < w, x.testBit i = y.testBit i) : Ref.digits w x = Ref.digits w y := by
  refine List.map_congr_left fun i hi => h _ ?_
  have hi : i < w := List.mem_range.mp hi
  omega

theorem digits_and_mask {w n : Nat} (h : w ≤ n) (v : Nat) : Ref.digits w (v &&& mask n) = Ref.digits w v :=
  digits_congr fun i hi => by
    rw [and_mask, Nat.testBit_mod_two_pow, decide_eq_true (Nat.lt_of_lt_of_le hi h), Bool.true_and]

/-- R123: a value put in below an accumulator puts its digits after the accumulator's. -/
theorem digits_shiftLeft_or {f v : Nat} (hv : v < 2 ^ f) (b acc : Nat) :
    Ref.digits (b + f) (acc <<< f ||| v) = Ref.digits b acc ++ Ref.digits f v := by
  have hhigh : (acc <<< f ||| v) >>> f = acc := by
    rw [Nat.shiftRight_or_distrib, Nat.shiftLeft_shiftRight, Nat.shiftRight_eq_div_pow v, Nat.div_eq_of_lt hv,
      Nat.or_zero]
  have hlow : Ref.digits f (acc <<< f ||| v) = Ref.digits f v :=
    digits_congr fun i hi => by simp [Nat.not_le_of_lt hi]
  rw [digits_add, hhigh, hlow]

theorem digits_of_zero (k : Nat) : Ref.digits k 0 = List.replicate k false := by
  simp [Ref.digits, List.map_const']

theorem number_append_singleton (bits : List Bool) (b : Bool) :
    Ref.number (bits ++ [b]) = 2 * Ref.number bits + b.toNat := by
  simp [Ref.number]

/-- Reading `w` digits of a value gives its low `w` bits (R8). -/
theorem number_digits (w v : Nat) : Ref.number (Ref.digits w v) = v &&& mask w := by
  rw [and_mask]
  induction w generalizing v with
  | zero => rw [Nat.pow_zero, Nat.mod_one]; rfl
  | succ w ih =>
    rw [digits_succ, number_append_singleton, ih, Nat.pow_succ', Nat.mod_mul, Nat.toNat_testBit]
    omega

/-- A number is not 0 exactly when a digit of it is set. -/
theorem number_ne_zero (bits : List Bool) : Ref.number bits ≠ 0 ↔ bits.any id = true := by
  induction bits using List.reverseRecOn with
  | nil => simp [Ref.number]
  | append_singleton bits b ih =>
    rw [number_append_singleton, List.any_append, Bool.or_eq_true, ← ih]
    cases b <;> simp

/-! ## The groups of a stream (R129) -/

theorem stream_append (w : Nat) (xs ys : List Nat) : Ref.stream w (xs ++ ys) = Ref.stream w xs ++ Ref.stream w ys :=
  List.flatMap_append

theorem stream_singleton (w x : Nat) : Ref.stream w [x] = Ref.digits w x := List.append_nil _

theorem stream_length (w : Nat) (xs : List Nat) : (Ref.stream w xs).length = xs.length * w := by
  simp [Ref.stream]

theorem groups_succ (t q : Nat) (bits : List Bool) :
    Ref.groups t (q + 1) bits = Ref.number (bits.take t) :: Ref.groups t q (bits.drop t) := by
  simp [Ref.groups, List.range_succ_eq_map, Nat.succ_mul, Nat.add_comm]

/-- The groups of a stream of `t`-bit values are the values, whatever follows them. -/
theorem groups_stream {t : Nat} {out : List Nat} (h : OutFits t out) (rest : List Bool) :
    Ref.groups t out.length (Ref.stream t out ++ rest) = out := by
  induction out with
  | nil => rfl
  | cons x xs ih =>
    have hx : x &&& mask t = x := (and_mask x t).trans (Nat.mod_eq_of_lt (h x List.mem_cons_self))
    have hsplit : Ref.stream t (x :: xs) ++ rest = Ref.digits t x ++ (Ref.stream t xs ++ rest) :=
      List.append_assoc ..
    rw [List.length_cons, groups_succ, hsplit, List.take_left' (digits_length t x), List.drop_left' (digits_length t x),
      number_digits, hx, ih fun e he => h e (List.mem_cons_of_mem x he)]

/-! ## What a conversion in progress carries (R128) -/

/-- The bits a conversion has taken in: those put out in `t`-bit values, then those still in `ACC`, oldest first. -/
def carried (t : Nat) (c : Conv) : List Bool := Ref.stream t c.out ++ Ref.digits c.bits c.acc

/-- R124: one turn of the emit loop moves the oldest `t` bits from `ACC` to the output. -/
theorem carried_emitOne {t : Nat} {c : Conv} (h : t ≤ c.bits) : carried t (emitOne t c) = carried t c := by
  have hbits : Ref.digits c.bits c.acc = Ref.digits t (c.acc >>> (c.bits - t)) ++ Ref.digits (c.bits - t) c.acc := by
    rw [← digits_add, Nat.add_sub_cancel' h]
  simp only [carried, emitOne, stream_append, stream_singleton, digits_and_mask le_rfl, hbits, List.append_assoc]

theorem carried_emitLoop (t fuel : Nat) (c : Conv) : carried t (emitLoop t fuel c) = carried t c := by
  induction fuel generalizing c with
  | zero => rfl
  | succ n ih =>
    simp only [emitLoop]
    split
    case isTrue h => exact (ih _).trans (carried_emitOne h)
    case isFalse => rfl

/-- R123, R128 (b), (c): with fewer than `t` bits in `ACC`, absorbing a value loses none. -/
theorem digits_cbAbsorb {f t v : Nat} {c : Conv} (hb : c.bits < t) (hv : v < 2 ^ f) :
    Ref.digits (cbAbsorb f t v c).bits (cbAbsorb f t v c).acc = Ref.digits c.bits c.acc ++ Ref.digits f v :=
  (digits_and_mask (by rw [cbAbsorb_bits]; omega) _).trans (digits_shiftLeft_or hv c.bits c.acc)

/-- R122: one input value is taken exactly when it fits. -/
theorem cbValue_eq_some {f t v : Nat} {c c' : Conv} :
    cbValue f t v c = some c' ↔ v < 2 ^ f ∧ cbEmit t (cbAbsorb f t v c) = c' := by
  simp [cbValue, cbCheck_iff]

/-- R127: one input value puts its digits at the end of what is carried. -/
theorem carried_cbValue {f t v : Nat} {c c' : Conv} (hb : c.bits < t) (h : cbValue f t v c = some c') :
    carried t c' = carried t c ++ Ref.digits f v := by
  obtain ⟨hv, rfl⟩ := cbValue_eq_some.mp h
  rw [cbEmit, carried_emitLoop, carried, digits_cbAbsorb hb hv, cbAbsorb_out, ← List.append_assoc, ← carried]

theorem cbValue_bits_lt {f t v : Nat} {c c' : Conv} (ht : 1 ≤ t) (h : cbValue f t v c = some c') : c'.bits < t := by
  obtain ⟨-, rfl⟩ := cbValue_eq_some.mp h
  exact emitLoop_bits_lt t ht _ _ le_rfl

theorem carried_cbValues {f t : Nat} {vs : List Elem} {c c' : Conv} (hb : c.bits < t)
    (h : cbValues f t vs c = some c') : carried t c' = carried t c ++ Ref.stream f vs := by
  induction vs generalizing c with
  | nil =>
    obtain rfl : c = c' := Option.some.inj h
    exact (List.append_nil _).symm
  | cons v vs ih =>
    simp only [cbValues] at h
    split at h
    case h_1 c₁ h₁ =>
      rw [ih (cbValue_bits_lt (Nat.zero_lt_of_lt hb) h₁) h, carried_cbValue hb h₁, List.append_assoc]
      rfl
    case h_2 => cases h

/-- R122, R127: the loop fails exactly where a value does not fit. -/
theorem cbValues_eq_none {f t : Nat} {vs : List Elem} {c : Conv} :
    cbValues f t vs c = none ↔ ∃ v ∈ vs, 2 ^ f ≤ v := by
  induction vs generalizing c with
  | nil => simp [cbValues]
  | cons v vs ih =>
    rw [List.exists_mem_cons_iff, cbValues]
    by_cases hv : v < 2 ^ f
    · rw [cbValue_eq_some.mpr ⟨hv, rfl⟩]
      simp [ih, Nat.not_le_of_lt hv]
    · simp [cbValue, cbCheck_iff, hv, Nat.le_of_not_lt hv]

/-! ## CBFINISH against the end of the stream (R125, R126) -/

/-- R125: the leftover value is the leftover bits with zeros appended at the low end. -/
theorem leftover_eq_number {t : Nat} {c : Conv} (hb : c.bits < t) :
    leftover t c = Ref.number (Ref.digits c.bits c.acc ++ List.replicate (t - c.bits) false) := by
  rw [leftover, ← number_digits, ← digits_of_zero, ← digits_shiftLeft_or (Nat.two_pow_pos _), Nat.or_zero,
    Nat.add_sub_cancel' (Nat.le_of_lt hb)]

/-- R126: the leftover value shows whether a leftover bit is set. -/
theorem leftover_ne_zero {t : Nat} {c : Conv} (hb : c.bits < t) :
    leftover t c ≠ 0 ↔ (Ref.digits c.bits c.acc).any id = true := by
  rw [leftover_eq_number hb, number_ne_zero, List.any_append]
  simp

/-- R125: with padding, the leftover bits with zeros after them make the last value. -/
theorem cbFinishPad_eq {t : Nat} {c : Conv} (hb : c.bits < t) :
    cbFinishPad t c = c.out ++ if 0 < c.bits then
      [Ref.number (Ref.digits c.bits c.acc ++ List.replicate (t - c.bits) false)] else [] := by
  rw [cbFinishPad, leftover_eq_number hb, apply_ite (c.out ++ ·), List.append_nil]

/-- R126: the strict way fails where a whole input value or a set bit is left over. -/
theorem cbFinishStrict_eq (f : Nat) {t : Nat} {c : Conv} (hb : c.bits < t) :
    cbFinishStrict f t c = if f ≤ c.bits ∨ (Ref.digits c.bits c.acc).any id = true then none else some c.out :=
  (ite_or ..).symm.trans (if_congr (or_congr_right (leftover_ne_zero hb)) rfl rfl)

/-- R122, R129: where a value does not fit, the bit-stream definition gives nothing. -/
theorem conversion_of_not_fits {d : List Elem} {f t : Nat} {pad : Bool} (h : ∃ v ∈ d, 2 ^ f ≤ v) :
    Ref.conversion d f t pad = none :=
  if_pos (by simpa using h)

/-- R125, R126, R129: after the loop, CBFINISH answers what the bit-stream definition gives. -/
theorem conversion_of_cbValues {d : List Elem} {f t : Nat} {pad : Bool} {c : Conv} (ht : 1 ≤ t)
    (hc : cbValues f t d cbStart = some c) : Ref.conversion d f t pad = cbFinish pad f t c := by
  have hreg : Regrouped f t (0 + d.length) c := (regrouped_cbStart f t ht).cbValues hc
  rw [Nat.zero_add] at hreg
  have hlt := hreg.bits_lt
  have hstream : Ref.stream f d = Ref.stream t c.out ++ Ref.digits c.bits c.acc :=
    (carried_cbValues (c := cbStart) ht hc).symm
  have hq : d.length * f / t = c.out.length := hreg.length_strict.symm
  have hr : d.length * f % t = c.bits := by
    rw [← hreg.total, Nat.mul_add_mod', Nat.mod_eq_of_lt hlt]
  have hfits : ¬ (d.any fun v => decide (2 ^ f ≤ v)) = true := by
    intro h
    have hnone := cbValues_eq_none (t := t) (c := cbStart).mpr (by simpa using h)
    rw [hc] at hnone
    cases hnone
  have hrest : (Ref.stream f d).drop (c.out.length * t) = Ref.digits c.bits c.acc := by
    rw [hstream, List.drop_left' (stream_length t c.out)]
  have hgroups : Ref.groups t c.out.length (Ref.stream f d) = c.out := by
    rw [hstream, groups_stream hreg.outFits]
  simp only [Ref.conversion, hq, hr, hrest, hgroups, if_neg hfits]
  cases pad with
  | true => exact congrArg some (cbFinishPad_eq hlt).symm
  | false => exact (cbFinishStrict_eq f hlt).symm

/-- R127 is R129: the machine's conversion is the regrouping of the bit stream. -/
theorem convertbits_eq_conversion {d : List Elem} {f t : Nat} {pad : Bool} (ht : 1 ≤ t) :
    convertbits d f t pad = Ref.conversion d f t pad := by
  unfold convertbits
  cases hc : cbValues f t d cbStart with
  | none => exact (conversion_of_not_fits (cbValues_eq_none.mp hc)).symm
  | some c => exact (conversion_of_cbValues ht hc).symm

/-- R64, R127, R193: on legal widths and lengths CONVERTBITS ends as the bit-stream definition says. -/
theorem convertbitsCommand_of_legal {pad : Bool} {f t : Nat} {d : List Elem} (hf : legalWidth f = true)
    (ht : legalWidth t = true) (hd : fitsSeq d.length = true)
    (ho : fitsSeq (convertedLength pad f t d.length) = true) :
    convertbitsCommand pad f t d = (Ref.conversion d f t pad).elim .fail (fun out => .ok { o := some out }) := by
  have hwidth : widthRefusal f t = none := (widthRefusal_eq_none f t).mpr ⟨hf, ht⟩
  have hlength : lengthRefusal [d.length, convertedLength pad f t d.length] = none :=
    (lengthRefusal_eq_none _).mpr (by simp [hd, ho])
  rw [convertbitsCommand, hwidth, hlength, unlessRefused_none, unlessRefused_none, unlessRefused_nil,
    convertbits_eq_conversion ((legalWidth_iff t).mp ht).1]
  cases Ref.conversion d f t pad <;> rfl

/-- Settles O31: the command ends as the bit-stream definition says, and a completion shows that ending and keeps the
inputs. -/
theorem convertbitsRegroupsTheBitStream : Obligations.ConvertbitsRegroupsTheBitStream := by
  intro pad f t s hf ht hd ho
  have hend := convertbitsCommand_of_legal hf ht hd ho
  obtain ⟨-, -, -, -, -, hst, hout, -⟩ :=
    complete_spec s ⟨false, true⟩ (convertbitsCommand pad f.toNat t.toNat s.d)
  refine ⟨fun out hconv => ⟨_, rfl, ?_, ?_, complete_keepsInputs _ _ _⟩,
    fun hconv => ⟨_, rfl, ?_, complete_keepsInputs _ _ _⟩⟩
  all_goals rw [hconv] at hend
  · rw [hst, hend]; rfl
  · rw [hout, hend]; rfl
  · rw [hst, hend]; rfl

end Sys2Proof.Laws
end

section
/-! PROOF. The command word as its fields (R60 to R63): a word with clear reserved fields is its five fields at their
places, so decoding and encoding undo each other. -/

namespace Sys2Proof.Laws

open Sys2Proof.Machine

/-! ## A value at its place in the word -/

/-- The value `f` at bit `lo` of an otherwise clear word (R60). -/
def place {n : Nat} (lo : Nat) (f : BitVec n) : Word := f.zeroExtend 32 <<< lo

/-- A field reads the value put at its place. -/
theorem extractLsb'_place_same {n lo : Nat} (f : BitVec n) (h : lo + n ≤ 32) : (place lo f).extractLsb' lo n = f := by
  ext j hj
  have hbit : lo + j < 32 ∧ j < 32 := by omega
  simp [place, hj, hbit]

/-- A field reads nothing of a value put beside it. -/
theorem extractLsb'_place_disjoint {n m lo lo' : Nat} (f : BitVec m) (h : lo + n ≤ lo' ∨ lo' + m ≤ lo) :
    (place lo' f).extractLsb' lo n = 0#n := by
  ext j hj
  rw [BitVec.getElem_extractLsb', place, BitVec.getLsbD_shiftLeft, BitVec.getElem_zero]
  by_cases hlow : lo + j < lo'
  · simp [hlow]
  · simp [BitVec.getLsbD_of_ge f (lo + j - lo') (by omega)]

/-- A field put back at its place is the word under the field's mask. -/
theorem place_extractLsb' (w : Word) (lo n : Nat) :
    place lo (w.extractLsb' lo n) = w &&& place lo (BitVec.allOnes n) := by
  ext j hj
  by_cases hlow : j < lo
  · simp [place, hlow]
  · by_cases hn : j - lo < n
    · simp [place, hj, hlow, hn, Nat.add_sub_cancel' (Nat.le_of_not_lt hlow)]
    · simp [place, hlow, hn]

/-- A field is 0 exactly when its mask meets no bit of the word. -/
theorem and_place_allOnes_eq_zero {w : Word} {lo n : Nat} (h : lo + n ≤ 32) :
    w &&& place lo (BitVec.allOnes n) = 0#32 ↔ w.extractLsb' lo n = 0#n := by
  rw [← place_extractLsb']
  constructor
  · intro hzero
    rw [← extractLsb'_place_same (w.extractLsb' lo n) h, hzero, BitVec.extractLsb'_zero]
  · intro hzero
    rw [hzero]
    simp [place]

/-- The spec's numeric field (R60) is the machine's. -/
theorem field_eq_extractLsb' (w : Word) (lo n : Nat) : Ref.field w lo n = (w.extractLsb' lo n).toNat := by
  rw [Ref.field, BitVec.extractLsb'_toNat, Nat.shiftRight_eq_div_pow]

theorem extractLsb'_padField (w : Word) : w.extractLsb' 4 1 = BitVec.ofBool (padField w) := by
  ext j hj
  obtain rfl : j = 0 := by omega
  simp [padField]

/-- R60: the reserved fields are `CMD[7:5]`, `CMD[15:14]`, `CMD[23:22]` and `CMD[31:29]`. -/
theorem reservedClear_iff (w : Word) : reservedClear w = true ↔
    w.extractLsb' 5 3 = 0#3 ∧ w.extractLsb' 14 2 = 0#2 ∧ w.extractLsb' 22 2 = 0#2 ∧ w.extractLsb' 29 3 = 0#3 := by
  have hmask : (0xE0C0C0E0#32 : Word) = place 5 (BitVec.allOnes 3) ||| (place 14 (BitVec.allOnes 2) |||
      (place 22 (BitVec.allOnes 2) ||| place 29 (BitVec.allOnes 3))) := by decide
  rw [reservedClear, beq_iff_eq, hmask]
  simp only [BitVec.and_or_distrib_left, BitVec.or_eq_zero_iff]
  rw [and_place_allOnes_eq_zero (by decide), and_place_allOnes_eq_zero (by decide),
    and_place_allOnes_eq_zero (by decide), and_place_allOnes_eq_zero (by decide)]

/-! ## The word made of its fields -/

/-- The word with the five fields of R60 and clear reserved fields. -/
def fieldsWord (op : BitVec 4) (pad : Bool) (f t : BitVec 6) (ver : Symbol) : Word :=
  place 0 op ||| (place 4 (BitVec.ofBool pad) ||| (place 8 f ||| (place 16 t ||| place 24 ver)))

section Fields
variable (op : BitVec 4) (pad : Bool) (f t : BitVec 6) (ver : Symbol)

@[simp] theorem opField_fieldsWord : opField (fieldsWord op pad f t ver) = op := by
  simp [opField, fieldsWord, BitVec.extractLsb'_or, extractLsb'_place_same, extractLsb'_place_disjoint]

@[simp] theorem padField_fieldsWord : padField (fieldsWord op pad f t ver) = pad := by
  have h : (fieldsWord op pad f t ver).extractLsb' 4 1 = BitVec.ofBool pad := by
    simp [fieldsWord, BitVec.extractLsb'_or, extractLsb'_place_same, extractLsb'_place_disjoint]
  rw [extractLsb'_padField] at h
  exact BitVec.ofBool_eq_iff_eq.mp h

@[simp] theorem fromField_fieldsWord : fromField (fieldsWord op pad f t ver) = f := by
  simp [fromField, fieldsWord, BitVec.extractLsb'_or, extractLsb'_place_same, extractLsb'_place_disjoint]

@[simp] theorem toField_fieldsWord : toField (fieldsWord op pad f t ver) = t := by
  simp [toField, fieldsWord, BitVec.extractLsb'_or, extractLsb'_place_same, extractLsb'_place_disjoint]

@[simp] theorem verField_fieldsWord : verField (fieldsWord op pad f t ver) = ver := by
  simp [verField, fieldsWord, BitVec.extractLsb'_or, extractLsb'_place_same, extractLsb'_place_disjoint]

@[simp] theorem reservedClear_fieldsWord : reservedClear (fieldsWord op pad f t ver) = true := by
  rw [reservedClear_iff]
  simp [fieldsWord, BitVec.extractLsb'_or, extractLsb'_place_disjoint]

end Fields

/-- With the reserved fields clear, a word is its five fields at their places (R60). -/
theorem fieldsWord_of_reservedClear {w : Word} (h : reservedClear w = true) :
    fieldsWord (opField w) (padField w) (fromField w) (toField w) (verField w) = w := by
  have hclear : w &&& 0xE0C0C0E0#32 = 0#32 := beq_iff_eq.mp h
  have hmask : place 0 (BitVec.allOnes 4) ||| (place 4 (BitVec.allOnes 1) ||| (place 8 (BitVec.allOnes 6) |||
      (place 16 (BitVec.allOnes 6) ||| place 24 (BitVec.allOnes 5)))) ||| 0xE0C0C0E0#32 = BitVec.allOnes 32 := by decide
  rw [fieldsWord, opField, ← extractLsb'_padField, fromField, toField, verField]
  simp only [place_extractLsb', ← BitVec.and_or_distrib_left]
  rw [← BitVec.or_zero (x := w &&& _), ← hclear, ← BitVec.and_or_distrib_left, hmask, BitVec.and_allOnes]

/-! ## The fields of a command -/

/-- The `PAD` of a command's word; 0 where it is not used (R62). -/
def padOf : Instr → Bool
  | .convertbits pad _ _ => pad
  | .expand | .polymod | .verify | .create | .b32enc | .b32dec | .wenc _ | .wdec => false

/-- The `FROMBITS` of a command's word; 0 where it is not used (R62). -/
def fromOf : Instr → BitVec 6
  | .convertbits _ f _ => f
  | .expand | .polymod | .verify | .create | .b32enc | .b32dec | .wenc _ | .wdec => 0

/-- The `TOBITS` of a command's word; 0 where it is not used (R62). -/
def toOf : Instr → BitVec 6
  | .convertbits _ _ t => t
  | .expand | .polymod | .verify | .create | .b32enc | .b32dec | .wenc _ | .wdec => 0

/-- The `WITVER` of a command's word; 0 where it is not used (R62). -/
def verOf : Instr → Symbol
  | .wenc ver => ver
  | .expand | .polymod | .verify | .create | .convertbits _ _ _ | .b32enc | .b32dec | .wdec => 0

/-- The encoder's word is the command's fields at their places. -/
theorem encode_eq_fieldsWord (i : Instr) :
    encode i = fieldsWord (opNumber i) (padOf i) (fromOf i) (toOf i) (verOf i) := by
  cases i with
  | convertbits pad f t =>
    simp [encode, fieldBits, opNumber, fieldsWord, padOf, fromOf, toOf, verOf, place, BitVec.or_assoc]
  | wenc ver => simp [encode, fieldBits, opNumber, fieldsWord, padOf, fromOf, toOf, verOf, place]
  | _ => decide

/-- The five fields of the word are those of the command. -/
structure HasFields (w : Word) (i : Instr) : Prop where
  op_eq : opField w = opNumber i
  pad_eq : padField w = padOf i
  from_eq : fromField w = fromOf i
  to_eq : toField w = toOf i
  ver_eq : verField w = verOf i

theorem hasFields_encode (i : Instr) : HasFields (encode i) i := by
  rw [encode_eq_fieldsWord]
  constructor <;> simp

theorem encode_of_hasFields {w : Word} {i : Instr} (hclear : reservedClear w = true) (h : HasFields w i) :
    encode i = w := by
  rw [encode_eq_fieldsWord, ← h.op_eq, ← h.pad_eq, ← h.from_eq, ← h.to_eq, ← h.ver_eq,
    fieldsWord_of_reservedClear hclear]

theorem convFieldsClear_iff (w : Word) :
    convFieldsClear w = true ↔ padField w = false ∧ fromField w = 0#6 ∧ toField w = 0#6 := by
  simp [convFieldsClear, and_assoc]

theorem verFieldClear_iff (w : Word) : verFieldClear w = true ↔ verField w = 0#5 := beq_iff_eq

theorem ifUnusedClear_eq_ok {clear : Bool} {i j : Instr} :
    ifUnusedClear clear i = .ok j ↔ clear = true ∧ i = j := by
  cases clear <;> simp [ifUnusedClear]

/-- The arm of a command without scalar fields: every field but `OP` is 0 (R62). -/
theorem hasFields_of_plain {w : Word} {i j : Instr}
    (h : ifUnusedClear (convFieldsClear w && verFieldClear w) i = .ok j)
    (hop : (opField w).toNat = (opNumber i).toNat)
    (hzero : padOf i = false ∧ fromOf i = 0 ∧ toOf i = 0 ∧ verOf i = 0) : HasFields w j := by
  obtain ⟨hplain, rfl⟩ := ifUnusedClear_eq_ok.mp h
  obtain ⟨hconv, hver⟩ := Bool.and_eq_true_iff.mp hplain
  obtain ⟨hpad, hfrom, hto⟩ := (convFieldsClear_iff w).mp hconv
  obtain ⟨hpad', hfrom', hto', hver'⟩ := hzero
  exact ⟨BitVec.eq_of_toNat_eq hop, hpad.trans hpad'.symm, hfrom.trans hfrom'.symm, hto.trans hto'.symm,
    ((verFieldClear_iff w).mp hver).trans hver'.symm⟩

/-- R60 to R63: a word decodes to the command whose fields it has, if its reserved fields are clear. -/
theorem decode_eq_ok_iff_hasFields {w : Word} {i : Instr} :
    decode w = .ok i ↔ reservedClear w = true ∧ HasFields w i := by
  constructor
  · intro h
    unfold decode at h
    split at h
    case isFalse => cases h
    case isTrue hclear =>
      refine ⟨hclear, ?_⟩
      dsimp only at h
      split at h
      case h_5 hop =>
        obtain ⟨hver, rfl⟩ := ifUnusedClear_eq_ok.mp h
        exact ⟨BitVec.eq_of_toNat_eq hop, rfl, rfl, rfl, (verFieldClear_iff w).mp hver⟩
      case h_8 hop =>
        obtain ⟨hconv, rfl⟩ := ifUnusedClear_eq_ok.mp h
        obtain ⟨hpad, hfrom, hto⟩ := (convFieldsClear_iff w).mp hconv
        exact ⟨BitVec.eq_of_toNat_eq hop, hpad, hfrom, hto, rfl⟩
      case h_10 => cases h
      all_goals
        rename_i hop
        exact hasFields_of_plain h hop ⟨rfl, rfl, rfl, rfl⟩
  · rintro ⟨hclear, ⟨hop, hpad, hfrom, hto, hver⟩⟩
    cases i <;>
      simp [decode, ifUnusedClear, convFieldsClear, verFieldClear, hclear, hop, hpad, hfrom, hto, hver, opNumber, padOf,
        fromOf, toOf, verOf]

/-- A word decodes to a command exactly when it is the command's one word (R62). -/
theorem decode_eq_ok_iff {w : Word} {i : Instr} : decode w = .ok i ↔ w = encode i := by
  rw [decode_eq_ok_iff_hasFields]
  constructor
  · rintro ⟨hclear, hfields⟩
    exact (encode_of_hasFields hclear hfields).symm
  · rintro rfl
    exact ⟨by rw [encode_eq_fieldsWord, reservedClear_fieldsWord], hasFields_encode i⟩

/-- Settles O3: the word of a command has clear reserved fields and the command's own fields. -/
theorem decodeInvertsEncode : Obligations.DecodeInvertsEncode := fun _ => decode_eq_ok_iff.mpr rfl

/-- Settles O4: an accepted word is put together from the fields of its command. -/
theorem encodeInvertsDecode : Obligations.EncodeInvertsDecode := fun _ _ h => (decode_eq_ok_iff.mp h).symm

/-- Settles O1: each word is the encoding of its command. -/
theorem specWordsDecode : Obligations.SpecWordsDecode := by
  simp only [Obligations.SpecWordsDecode, decode_eq_ok_iff]
  decide

end Sys2Proof.Laws
end

section
/-! PROOF. The words of R62 as match, mask and field formulas, and the lines of R66 that issue them. -/

namespace Sys2Proof.Laws

open Sys2Proof.Machine

/-! ## Match and mask (R62) -/

/-- A field inside a mask is read from the masked word. -/
theorem extractLsb'_of_and_eq {w m x : Word} {lo n : Nat} (h : w &&& m = x)
    (hm : m.extractLsb' lo n = BitVec.allOnes n) :
    w.extractLsb' lo n = x.extractLsb' lo n := by
  rw [← h, BitVec.extractLsb'_and, hm, BitVec.and_allOnes]

theorem padField_of_and_eq {w m x : Word} (h : w &&& m = x) (hm : m.extractLsb' 4 1 = BitVec.allOnes 1) :
    padField w = padField x :=
  BitVec.ofBool_eq_iff_eq.mp (by simpa only [extractLsb'_padField] using extractLsb'_of_and_eq h hm)

/-- The reserved fields inside a mask are read from the masked word. -/
theorem reservedClear_of_and_eq {w m x : Word} (h : w &&& m = x) (hm : m &&& 0xE0C0C0E0#32 = 0xE0C0C0E0#32) :
    reservedClear w = reservedClear x := by
  rw [← h, reservedClear, reservedClear, BitVec.and_assoc, hm]

/-- R62: the match of CONVERTBITS, whose mask leaves out its three fields. -/
theorem decode_convertbits_iff_mask (w : Word) :
    (∃ pad f t, decode w = .ok (.convertbits pad f t)) ↔ w &&& 0xFFC0C0EF#32 = 0x00000005#32 := by
  constructor
  · rintro ⟨pad, f, t, h⟩
    rw [decode_eq_ok_iff.mp h]
    exact EncodeTable.convertbits pad f t
  · intro h
    have hop : opField w = 5 := extractLsb'_of_and_eq h (by decide)
    have hver : verField w = 0 := extractLsb'_of_and_eq h (by decide)
    have hclear : reservedClear w = true := reservedClear_of_and_eq h (by decide)
    exact ⟨padField w, fromField w, toField w,
      decode_eq_ok_iff_hasFields.mpr ⟨hclear, ⟨hop, rfl, rfl, rfl, hver⟩⟩⟩

/-- R62: the match of WENC, whose mask leaves out the version. -/
theorem decode_wenc_iff_mask (w : Word) :
    (∃ ver, decode w = .ok (.wenc ver)) ↔ w &&& 0xE0FFFFFF#32 = 0x00000008#32 := by
  constructor
  · rintro ⟨ver, h⟩
    rw [decode_eq_ok_iff.mp h]
    exact EncodeTable.wenc ver
  · intro h
    have hop : opField w = 8 := extractLsb'_of_and_eq h (by decide)
    have hpad : padField w = false := padField_of_and_eq h (by decide)
    have hfrom : fromField w = 0 := extractLsb'_of_and_eq h (by decide)
    have hto : toField w = 0 := extractLsb'_of_and_eq h (by decide)
    have hclear : reservedClear w = true := reservedClear_of_and_eq h (by decide)
    exact ⟨verField w, decode_eq_ok_iff_hasFields.mpr ⟨hclear, ⟨hop, hpad, hfrom, hto, rfl⟩⟩⟩

/-- R62: the field formula of CONVERTBITS. -/
theorem encode_convertbits (pad : Bool) (f t : BitVec 6) :
    encode (.convertbits pad f t) = 0x5#32 ||| (BitVec.ofNat 32 pad.toNat <<< 4) ||| (BitVec.ofNat 32 f.toNat <<< 8) |||
      (BitVec.ofNat 32 t.toNat <<< 16) := by
  have hpad : BitVec.ofNat 32 pad.toNat = (BitVec.ofBool pad).zeroExtend 32 := by cases pad <;> rfl
  simp [encode, opNumber, fieldBits, hpad, BitVec.or_assoc]

/-- R62: the field formula of WENC. -/
theorem encode_wenc (ver : Symbol) : encode (.wenc ver) = 0x8#32 ||| (BitVec.ofNat 32 ver.toNat <<< 24) := by
  simp [encode, opNumber, fieldBits]

/-- Settles O2: a command without scalar fields has the one word its encoding computes to; CONVERTBITS and WENC by their
masks and field formulas. -/
theorem decodeIsMatchAndMask : Obligations.DecodeIsMatchAndMask := by
  refine ⟨fun w => ⟨decode_eq_ok_iff, decode_eq_ok_iff, decode_eq_ok_iff, decode_eq_ok_iff, decode_eq_ok_iff,
    decode_eq_ok_iff, decode_eq_ok_iff, decode_convertbits_iff_mask w, decode_wenc_iff_mask w⟩, fun pad f t => ?_,
    fun ver => ?_⟩
  · exact decode_eq_ok_iff.mpr (encode_convertbits pad f t).symm
  · exact decode_eq_ok_iff.mpr (encode_wenc ver).symm

/-! ## The lines of the assembler (R66) -/

/-- R66: a line the host issues runs its command, under the command's word, on its own sequences. -/
theorem runsAs_of_act {s : State} {rest : List HostAct} {line : AsmLine} {w : Word} {i : Instr}
    (hp : s.pending = line.act :: rest) (hi : line.instr = i) (hw : w = encode i) :
    Ref.RunsAs s rest w i line.seqH line.seqD := by
  subst hi hw
  have hdec : decode (encode line.instr) = .ok line.instr := decode_eq_ok_iff.mpr rfl
  exact ⟨hdec, step_of_decode_ok hp hdec⟩

/-- Settles O12: each form by `runsAs_of_act`; a sequence the line does not name is presented empty. -/
theorem assemblerLineRunsItsCommand : Obligations.AssemblerLineRunsItsCommand := by
  intro s rest
  refine ⟨?_, ?_, ?_, ?_, ?_, ?_, ?_, ?_, ?_⟩
  · exact fun h hp => ⟨[], runsAs_of_act hp rfl (by decide)⟩
  · exact fun d hp => ⟨[], runsAs_of_act hp rfl (by decide)⟩
  · exact fun h d hp => runsAs_of_act hp rfl (by decide)
  · exact fun h d hp => runsAs_of_act hp rfl (by decide)
  · exact fun d f t pad hp => ⟨[], runsAs_of_act hp rfl (encode_convertbits pad f t).symm⟩
  · exact fun h d hp => runsAs_of_act hp rfl (by decide)
  · exact fun d hp => ⟨[], runsAs_of_act hp rfl (by decide)⟩
  · exact fun h ver d hp => runsAs_of_act hp rfl (encode_wenc ver).symm
  · exact fun h d hp => runsAs_of_act hp rfl (by decide)

end Sys2Proof.Laws
end

section
/-! PROOF. The commands that are refused for their word: illegal words (R63) and illegal widths or lengths of
CONVERTBITS (R64, R193). -/

namespace Sys2Proof.Laws

open Sys2Proof.Machine

/-- R194: a command whose execution does not refuse is refused exactly when a reason holds. -/
theorem unlessRefused_status_eq_refused {why : List (Option RefuseReason)} {e : Ending} (he : e.status ≠ .refused) :
    (unlessRefused why e).status = .refused ↔ ∃ w ∈ why, w ≠ none := by
  obtain ⟨r, hr, h⟩ | ⟨hnone, h⟩ := unlessRefused_cases why e
  · rw [h]
    exact iff_of_true rfl ⟨some r, hr, Option.some_ne_none r⟩
  · rw [h]
    exact iff_of_false he fun ⟨w, hw, hne⟩ => hne (hnone w hw)

/-- R64, R193: when CONVERTBITS is refused. -/
theorem convertbitsCommand_status_eq_refused (pad : Bool) (f t : Nat) (d : List Elem) :
    (convertbitsCommand pad f t d).status = .refused ↔
      ¬ (1 ≤ f ∧ f ≤ Config.convWmax ∧ 1 ≤ t ∧ t ≤ Config.convWmax) ∨
        fitsSeq d.length = false ∨ fitsSeq (convertedLength pad f t d.length) = false := by
  have hwidth : widthRefusal f t ≠ none ↔ ¬ (1 ≤ f ∧ f ≤ Config.convWmax ∧ 1 ≤ t ∧ t ≤ Config.convWmax) := by
    rw [ne_eq, widthRefusal_eq_none, legalWidth_iff, legalWidth_iff, and_assoc]
  have hlength : lengthRefusal [d.length, convertedLength pad f t d.length] ≠ none ↔
      fitsSeq d.length = false ∨ fitsSeq (convertedLength pad f t d.length) = false := by
    simp [lengthRefusal_eq_none, -not_and, not_and_or]
  rw [convertbitsCommand, unlessRefused_status_eq_refused, List.exists_mem_cons_iff, List.exists_mem_cons_iff, hwidth,
    hlength]
  · simp
  · split <;> simp [Ending.status]

theorem complete_status (s : State) (u : Units) (e : Ending) : (s.complete u e).status = e.status := by
  obtain ⟨-, -, -, -, -, hst, -⟩ := complete_spec s u e
  exact hst

/-- R193: what a refused command leaves alone. -/
theorem complete_of_refused {s : State} {u : Units} {e : Ending} (he : e.status = .refused) :
    Ref.KeepsInputs s (s.complete u e) ∧ Ref.KeepsRegisters s (s.complete u e) ∧
      Ref.DeliversNothing s (s.complete u e) :=
  ⟨complete_keepsInputs s u e, complete_keepsRegisters he, complete_deliversNothing (by simp [he])⟩

/-- Settles O6: the reasons of CONVERTBITS, and what a completion leaves alone when it refuses. -/
theorem convertbitsWidthsAreBounded : Obligations.ConvertbitsWidthsAreBounded := by
  intro pad f t s
  refine ⟨_, exec_eq _ s, ?_, fun href => complete_of_refused ((complete_status ..).symm.trans href)⟩
  rw [complete_status]
  exact convertbitsCommand_status_eq_refused pad f.toNat t.toNat s.d

/-! ## Illegal words (R63) -/

section FieldNumbers
variable {w : Word} {i : Instr} (h : HasFields w i)
include h

theorem HasFields.field_op : Ref.field w 0 4 = (opNumber i).toNat := by
  rw [field_eq_extractLsb', ← h.op_eq, opField]

theorem HasFields.field_pad : Ref.field w 4 1 = (padOf i).toNat := by
  rw [field_eq_extractLsb', extractLsb'_padField, h.pad_eq, BitVec.toNat_ofBool]

theorem HasFields.field_from : Ref.field w 8 6 = (fromOf i).toNat := by
  rw [field_eq_extractLsb', ← h.from_eq, fromField]

theorem HasFields.field_to : Ref.field w 16 6 = (toOf i).toNat := by
  rw [field_eq_extractLsb', ← h.to_eq, toField]

theorem HasFields.field_ver : Ref.field w 24 5 = (verOf i).toNat := by
  rw [field_eq_extractLsb', ← h.ver_eq, verField]

end FieldNumbers

/-- R63: a word that decodes has no reserved `OP`, and 0 in every reserved and every unused field. -/
theorem not_illegalCommand_of_decode {w : Word} {i : Instr} (hw : decode w = .ok i) : ¬ Ref.IllegalCommand w := by
  obtain ⟨hclear, hfields⟩ := decode_eq_ok_iff_hasFields.mp hw
  obtain ⟨h5, h14, h22, h29⟩ := (reservedClear_iff w).mp hclear
  rw [Ref.IllegalCommand, hfields.field_op, hfields.field_pad, hfields.field_from, hfields.field_to, hfields.field_ver,
    field_eq_extractLsb' w 5 3, field_eq_extractLsb' w 14 2, field_eq_extractLsb' w 22 2, field_eq_extractLsb' w 29 3,
    h5, h14, h22, h29]
  cases i <;> simp [opNumber, padOf, fromOf, toOf, verOf]

/-- R64: a word with an illegal width that decodes is a CONVERTBITS with that width. -/
theorem exists_convertbits_of_illegalWidth {w : Word} {i : Instr} (hw : decode w = .ok i) (hill : Ref.IllegalWidth w) :
    ∃ pad f t, i = .convertbits pad f t ∧
      ¬ (1 ≤ f.toNat ∧ f.toNat ≤ Config.convWmax ∧ 1 ≤ t.toNat ∧ t.toNat ≤ Config.convWmax) := by
  obtain ⟨-, hfields⟩ := decode_eq_ok_iff_hasFields.mp hw
  obtain ⟨hop, hwidth⟩ := hill
  rw [hfields.field_op] at hop
  rw [hfields.field_from, hfields.field_to] at hwidth
  cases i with
  | convertbits pad f t => exact ⟨pad, f, t, rfl, hwidth⟩
  | _ => simp [opNumber] at hop

/-- Settles O5: a word that does not decode is refused as such; one that does can only be a CONVERTBITS with an illegal
width, which its command refuses. -/
theorem illegalWordIsRefused : Obligations.IllegalWordIsRefused := by
  intro s w h d rest hp hill
  cases hw : decode w with
  | error why => exact ⟨_, step_of_decode_error hp hw, rfl, ⟨rfl, rfl, rfl⟩, ⟨rfl, rfl, rfl, rfl⟩, rfl⟩
  | ok i =>
    obtain ⟨pad, f, t, rfl, hwidth⟩ :=
      exists_convertbits_of_illegalWidth hw (hill.resolve_left (not_illegalCommand_of_decode hw))
    have href : (convertbitsCommand pad f.toNat t.toNat d).status = .refused :=
      (convertbitsCommand_status_eq_refused ..).mpr (.inl hwidth)
    obtain ⟨⟨-, -, -, hpending⟩, hregs, hnothing⟩ :=
      complete_of_refused (s := s.present w h d rest) (u := ⟨false, true⟩) href
    exact ⟨_, step_of_decode_ok hp hw, (complete_status ..).trans href, hregs, hnothing, hpending⟩

end Sys2Proof.Laws
end

section
/-! PROOF. The alphabet and its inverse (R67, R68). -/

namespace Sys2Proof.Laws

open Sys2Proof.Machine

/-- R67: the machine's codes spell the spec's string. -/
theorem ref_alphabet_eq : Ref.alphabet = alphabet := by decide

/-- Settles O35: read off the machine's list of codes. -/
theorem alphabetIsTheSpecString : Obligations.AlphabetIsTheSpecString := by
  rw [Obligations.AlphabetIsTheSpecString, ref_alphabet_eq]
  decide

/-- R141: a character outside the alphabet has no symbol. -/
theorem charunmap_of_notMem {c : Elem} (h : c ∉ alphabet) : charunmap c = none := by
  rw [charunmap, List.findIdx?_eq_none_iff.mpr, Option.map_none]
  intro a ha
  exact beq_false_of_ne fun hac => h (hac ▸ ha)

/-- Settles O36: the 32 characters one by one; any other code is in neither the alphabet nor the table. -/
theorem inverseAlphabetIsTheSpecTable : Obligations.InverseAlphabetIsTheSpecTable := by
  intro c
  by_cases hc : c ∈ alphabet
  · have hall : ∀ a ∈ alphabet, charunmap a = Ref.inverseAlphabet.lookup a := by decide
    exact hall c hc
  · have hkeys : ∀ p ∈ Ref.inverseAlphabet, p.1 ∈ alphabet := by decide
    rw [charunmap_of_notMem hc, List.lookup_eq_none_iff.mpr]
    intro p hp
    exact bne_iff_ne.mpr fun hcp => hc (hcp ▸ hkeys p hp)

/-- R140, R141: the two character mappers undo each other. -/
theorem charunmap_eq_some {c : Elem} {x : Symbol} : charunmap c = some x ↔ c = charmap x := by
  constructor
  · intro h
    have hc : c ∈ alphabet := by
      by_contra hc
      rw [charunmap_of_notMem hc] at h
      cases h
    have hall : ∀ a ∈ alphabet, ∀ x, charunmap a = some x → a = charmap x := by decide
    exact hall c hc x h
  · rintro rfl
    revert x
    decide

theorem charmap_ne_separator : ∀ x : Symbol, charmap x ≠ separator := by decide

/-- R151, R152: a sequence of characters maps exactly when it is written by symbols. -/
theorem charunmapAll_eq_some {s : List Elem} {xs : List Symbol} : charunmapAll s = some xs ↔ s = xs.map charmap := by
  induction s generalizing xs with
  | nil => cases xs <;> simp [charunmapAll]
  | cons c cs ih =>
    simp only [charunmapAll]
    cases xs with
    | nil => split <;> simp
    | cons x xs =>
      rw [List.map_cons, List.cons.injEq, ← charunmap_eq_some, ← ih]
      cases charunmap c <;> cases charunmapAll cs <;> simp

/-- R67, R140: the spec's character of a symbol is the machine's. -/
theorem charOf_toNat (x : Symbol) : Ref.charOf x.toNat = charmap x := by
  rw [Ref.charOf, ref_alphabet_eq, charmap]

theorem map_charOf_ofSymbols (xs : List Symbol) : (ofSymbols xs).map Ref.charOf = xs.map charmap := by
  rw [ofSymbols, List.map_map]
  exact List.map_congr_left fun x _ => charOf_toNat x

end Sys2Proof.Laws
end

section
/-! PROOF. Unit U1 against the pseudocode over natural numbers (R101, R103, R104, R105). -/

namespace Sys2Proof.Laws

open Sys2Proof.Machine

/-- R101: one tap over natural numbers. -/
theorem applyTap_toNat (top : BitVec 5) (chk : Chk) (k : Nat) :
    (applyTap top chk k).toNat =
      if top.toNat >>> k &&& 1 = 1 then chk.toNat ^^^ (gen.getD k 0).toNat else chk.toNat := by
  have hbit : top.getLsbD k = true ↔ top.toNat >>> k &&& 1 = 1 := by
    simp [BitVec.getLsbD, Nat.testBit, Nat.and_comm, Nat.one_and_eq_mod_two]
  rw [applyTap, if_congr hbit rfl rfl, apply_ite BitVec.toNat, BitVec.toNat_xor]

/-- R101: PMSTEP is the pseudocode. -/
theorem pmStep_toNat (chk : Chk) (v : Symbol) : (pmStep chk v).toNat = Ref.pmstep chk.toNat v.toNat := by
  have htop : (chk.extractLsb' 25 5).toNat = chk.toNat >>> 25 := by
    rw [BitVec.extractLsb'_toNat, Nat.shiftRight_eq_div_pow]
    omega
  have hbase : (((chk &&& 0x1ffffff#30) <<< 5) ^^^ v.zeroExtend 30).toNat =
      ((chk.toNat &&& 0x1ffffff) <<< 5) ^^^ v.toNat := by
    have hlow : chk.toNat &&& 0x1ffffff < 2 ^ 25 := Nat.and_lt_two_pow _ (by decide)
    have hshift : (chk.toNat &&& 0x1ffffff) <<< 5 < 2 ^ 30 := by
      rw [Nat.shiftLeft_eq]
      omega
    have hv : v.toNat < 2 ^ 30 := v.isLt.trans (by decide)
    rw [BitVec.toNat_xor, BitVec.toNat_shiftLeft, BitVec.toNat_and, BitVec.toNat_setWidth, Nat.mod_eq_of_lt hv]
    exact congrArg (· ^^^ v.toNat) (Nat.mod_eq_of_lt hshift)
  simp only [pmStep, List.foldl_cons, List.foldl_nil, applyTap_toNat, htop, hbase]
  rfl

/-- R103: a run over symbols is the pseudocode's run over their numbers. -/
theorem polymod_toNat (xs : List Symbol) : (polymod xs).toNat = Ref.polymod (ofSymbols xs) := by
  have hrun : ∀ chk : Chk, (xs.foldl pmStep chk).toNat = (ofSymbols xs).foldl Ref.pmstep chk.toNat := by
    induction xs with
    | nil => exact fun _ => rfl
    | cons x xs ih =>
      intro chk
      rw [List.foldl_cons, ih, pmStep_toNat]
      rfl
  exact hrun seed

theorem ofSymbols_append (xs ys : List Symbol) : ofSymbols (xs ++ ys) = ofSymbols xs ++ ofSymbols ys :=
  List.map_append

theorem high5_toNat (c : Code) : (high5 c).toNat = c.toNat >>> 5 := by
  have hc := c.isLt
  simp [high5, Nat.shiftRight_eq_div_pow]
  omega

theorem low5_toNat (c : Code) : (low5 c).toNat = c.toNat &&& 31 := by
  have hlow : c.toNat &&& 31 < 2 ^ 5 := Nat.and_lt_two_pow _ (by decide)
  rw [low5, BitVec.toNat_setWidth, BitVec.toNat_and]
  exact Nat.mod_eq_of_lt hlow

/-- R104: the expanded HRP is the pseudocode's. -/
theorem ofSymbols_expand (h : List Code) : ofSymbols (expand h) = Ref.expand (ofCodes h) := by
  simp [ofSymbols, expand, Ref.expand, ofCodes, Function.comp_def, high5_toNat, low5_toNat]

/-- R105: VERIFY holds exactly when the pseudocode's run leaves 1. -/
theorem verify_iff (h : List Code) (xs : List Symbol) :
    verify h xs = true ↔ Ref.polymod (Ref.expand (ofCodes h) ++ ofSymbols xs) = 1 := by
  rw [← ofSymbols_expand, ← ofSymbols_append, ← polymod_toNat, verify, beq_iff_eq, ← BitVec.toNat_inj]
  rfl

end Sys2Proof.Laws
end

section
/-! PROOF. B32DEC against the grammar of R70: the last separator splits a string into its HRP and its symbols. -/

namespace Sys2Proof.Laws

open Sys2Proof.Machine

/-! ## The string tests (R145, R146) -/

theorem inRange_iff (str : List Elem) : inRange str = true ↔ ∀ c ∈ str, 33 ≤ c ∧ c ≤ 126 := by simp [inRange]

theorem mixedCase_iff (str : List Elem) :
    mixedCase str = true ↔ (∃ c ∈ str, Ref.Lower c) ∧ ∃ c ∈ str, Ref.Upper c := by
  simp [mixedCase, isLower, isUpper, Ref.Lower, Ref.Upper]

theorem map_lower_eq (str : List Elem) : str.map lower = str.map Ref.toLower :=
  List.map_congr_left fun c _ => lower_eq_toLower c

/-! ## The separator (R148) -/

/-- R148: a separator with none after it is the one the search finds. -/
theorem lastSeparator_append {front back : List Elem} (h : separator ∉ back) :
    lastSeparator (front ++ separator :: back) = some front.length := by
  rw [lastSeparator_eq_some]
  refine ⟨by simp, fun j hj hsep => h ?_⟩
  obtain ⟨k, rfl⟩ : ∃ k, j = front.length + (k + 1) := ⟨j - front.length - 1, by omega⟩
  rw [List.getElem?_append_right (Nat.le_add_right ..), Nat.add_sub_cancel_left, List.getElem?_cons_succ] at hsep
  exact List.mem_of_getElem? hsep

/-- R148: the string around the separator the search finds. -/
theorem eq_append_of_lastSeparator {s : List Elem} {pos : Nat} (h : lastSeparator s = some pos) :
    s = s.take pos ++ separator :: s.drop (pos + 1) := by
  obtain ⟨hsep, -⟩ := (lastSeparator_eq_some s pos).mp h
  obtain ⟨hlt, hget⟩ := List.getElem?_eq_some_iff.mp hsep
  rw [← hget, List.getElem_cons_drop, List.take_append_drop]

theorem separator_notMem_map_charmap (xs : List Symbol) : separator ∉ xs.map charmap := by
  intro h
  obtain ⟨x, -, hx⟩ := List.mem_map.mp h
  exact charmap_ne_separator x hx

/-! ## Characters as codes (R7) -/

theorem map_ofNat_ofCodes (h : List Code) : (ofCodes h).map (BitVec.ofNat 8) = h := by
  rw [ofCodes, List.map_map]
  exact (List.map_congr_left fun c _ => (BitVec.ofNat_toNat 8 c).trans (BitVec.setWidth_eq c)).trans (List.map_id h)

theorem ofCodes_map_ofNat {s : List Elem} (hs : ∀ c ∈ s, c < 256) : ofCodes (s.map (BitVec.ofNat 8)) = s := by
  rw [ofCodes, List.map_map]
  exact (List.map_congr_left fun c hc => Nat.mod_eq_of_lt (hs c hc)).trans (List.map_id s)

/-! ## The grammar (R70) -/

/-- The lowercased string `s` is the HRP, the separator, and the characters of the data and of a checksum that
verifies. -/
def SplitsAs (s : List Elem) (hrp : List Code) (data : List Symbol) : Prop :=
  1 ≤ hrp.length ∧ hrp.length ≤ 83 ∧ ∃ checksum : List Symbol, checksum.length = 6 ∧
    s = ofCodes hrp ++ separator :: (data ++ checksum).map charmap ∧ verify hrp (data ++ checksum) = true

/-- R149 to R154: the search and the tests after it pass exactly the strings that split. -/
theorem decodeAt_lastSeparator_iff {s : List Elem} (hs : ∀ c ∈ s, c < 256) {hrp : List Code} {data : List Symbol} :
    (∃ pos, lastSeparator s = some pos ∧ decodeAt s pos = some (hrp, data)) ↔ SplitsAs s hrp data := by
  constructor
  · rintro ⟨pos, hlast, hat⟩
    obtain ⟨hpos, hpos', hlen, syms, hsyms, rfl, hverify, rfl⟩ := decodeAt_eq_some.mp hat
    have hcount := charunmapAll_length _ _ hsyms
    rw [List.length_drop] at hcount
    have htake : (s.take pos).length = pos := List.length_take_of_le (by omega)
    refine ⟨by rwa [List.length_map, htake], by rwa [List.length_map, htake], syms.drop (syms.length - 6), ?_, ?_, ?_⟩
    · rw [List.length_drop]
      omega
    · rw [List.take_append_drop, ← charunmapAll_eq_some.mp hsyms,
        ofCodes_map_ofNat fun c hc => hs c (List.mem_of_mem_take hc)]
      exact eq_append_of_lastSeparator hlast
    · rwa [List.take_append_drop]
  · rintro ⟨hpos, hpos', checksum, hck, rfl, hverify⟩
    refine ⟨_, lastSeparator_append (separator_notMem_map_charmap _), decodeAt_eq_some.mpr ?_⟩
    rw [ofCodes_length]
    refine ⟨hpos, hpos', ?_, data ++ checksum, charunmapAll_eq_some.mpr ?_, ?_, hverify, ?_⟩
    · simp [hck]
    · rw [List.append_cons, List.drop_left' (by simp)]
    · rw [List.take_left' (ofCodes_length hrp), map_ofNat_ofCodes]
    · rw [List.length_append, hck, Nat.add_sub_cancel, List.take_left]

/-- R70, R155: what the decoder answers is what the string stands for by the grammar. -/
theorem b32dec_eq_some_iff_stringDenotes {str : List Elem} {hrp : List Code} {data : List Symbol} :
    b32dec str = some (hrp, data) ↔ Ref.StringDenotes str hrp data := by
  rw [b32dec_eq_some, inRange_iff, ← Bool.not_eq_true, mixedCase_iff, Ref.StringDenotes]
  refine and_congr_right fun hrange => and_congr_right fun _ => ?_
  have hcodes : ∀ c ∈ str.map lower, c < 256 := by
    intro c hc
    obtain ⟨x, hx, rfl⟩ := List.mem_map.mp hc
    obtain ⟨-, hle, -⟩ := toLower_of_inRange (hrange x hx)
    rw [lower_eq_toLower]
    exact Nat.lt_of_le_of_lt hle (by decide)
  rw [decodeAt_lastSeparator_iff hcodes, SplitsAs, map_lower_eq]
  simp only [verify_iff, map_charOf_ofSymbols, List.append_assoc, List.singleton_append, separator]

/-- R193: B32DEC on a string within `SEQ_MAX` ends as its function answers. -/
theorem b32decCommand_of_fits {d : List Elem} (hd : fitsSeq d.length = true) :
    b32decCommand d = (b32dec d).elim .fail fun r => .ok { oh := some r.1, o := some (ofSymbols r.2) } := by
  have hlength : lengthRefusal [d.length] = none := (lengthRefusal_eq_none _).mpr (by simpa using hd)
  rw [b32decCommand, hlength, unlessRefused_none, unlessRefused_nil]
  cases b32dec d <;> rfl

/-- Settles O39: the command ends as the grammar says (`b32dec_eq_some_iff_stringDenotes`), and a completion shows that
ending and keeps the inputs. -/
theorem b32decAcceptsTheGrammar : Obligations.B32decAcceptsTheGrammar := by
  intro s hd
  have hend := b32decCommand_of_fits hd
  obtain ⟨-, -, -, -, -, hst, ho, hoh, -⟩ := complete_spec s ⟨true, false⟩ (b32decCommand s.d)
  constructor
  · intro hrp data hden
    rw [b32dec_eq_some_iff_stringDenotes.mpr hden] at hend
    refine ⟨_, rfl, ?_, ?_, ?_, complete_keepsInputs _ _ _⟩
    · rw [hst, hend]; rfl
    · rw [hoh, hend]; rfl
    · rw [ho, hend]; rfl
  · intro hnone
    have hfail : b32dec s.d = none := by
      refine Option.eq_none_iff_forall_ne_some.mpr fun ⟨hrp, data⟩ hdec => ?_
      exact hnone ⟨hrp, data, b32dec_eq_some_iff_stringDenotes.mp hdec⟩
    rw [hfail] at hend
    exact ⟨_, rfl, by rw [hst, hend]; rfl, complete_keepsInputs _ _ _⟩

end Sys2Proof.Laws
end

section
/-! PROOF. PMSTEP as a linear map over GF(2), a shift with taps (R101, R102, R107). -/

namespace Sys2Proof.Laws

open Sys2Proof.Machine

/-! ## The shift and the taps -/

/-- R101: the accumulator moved up by 5 places with the symbol below it, before the taps. -/
def shiftIn (c : Chk) (v : Symbol) : Chk := ((c &&& 0x1ffffff#30) <<< 5) ^^^ v.zeroExtend 30

/-- R101: `TOP`, the five bits shifted out. -/
def topOf (c : Chk) : BitVec 5 := c.extractLsb' 25 5

theorem pmStep_eq (c : Chk) (v : Symbol) :
    pmStep c v = [0, 1, 2, 3, 4].foldl (applyTap (topOf c)) (shiftIn c v) := rfl

/-- R102: one tap, bit by bit. -/
theorem applyTap_getLsbD (top : BitVec 5) (c : Chk) (k j : Nat) :
    (applyTap top c k).getLsbD j = (c.getLsbD j ^^ (top.getLsbD k && (gen.getD k 0).getLsbD j)) := by
  rw [applyTap]
  split
  next htop => rw [BitVec.getLsbD_xor, htop, Bool.true_and]
  next htop => rw [Bool.eq_false_of_not_eq_true htop, Bool.false_and, Bool.xor_false]

/-- R102: the shift, bit by bit. -/
theorem shiftIn_getLsbD (c : Chk) (v : Symbol) {j : Nat} (hj : j < 30) :
    (shiftIn c v).getLsbD j = if j < 5 then v.getLsbD j else c.getLsbD (j - 5) := by
  have hmask : (0x1ffffff#30).getLsbD (j - 5) = decide (j - 5 < 25) := Nat.testBit_two_pow_sub_one 25 (j - 5)
  have hkeep : j - 5 < 25 := by omega
  rw [shiftIn, BitVec.getLsbD_xor, BitVec.getLsbD_shiftLeft, BitVec.getLsbD_and, hmask, decide_eq_true hkeep,
    BitVec.getLsbD_setWidth, decide_eq_true hj]
  by_cases hlow : j < 5
  · simp [hlow]
  · simp [hlow, BitVec.getLsbD_of_ge v j (by omega)]

/-- Settles O23: `TOP` is the bits 25 to 29, and each of the five taps adds its own term. -/
theorem pmstepBitByBit : Obligations.PmstepBitByBit := by
  intro c v j hj
  have htop : ∀ k < 5, (topOf c).getLsbD k = c.getLsbD (25 + k) := fun k hk => by
    rw [topOf, BitVec.getLsbD_extractLsb', decide_eq_true hk, Bool.true_and]
  simp only [pmStep_eq, List.foldl_cons, List.foldl_nil, applyTap_getLsbD, shiftIn_getLsbD c v hj]
  rw [htop 0 (by decide), htop 1 (by decide), htop 2 (by decide), htop 3 (by decide), htop 4 (by decide)]
  rfl

/-- Settles O22: the machine's step and the pseudocode agree line by line. -/
theorem pmstepIsThePseudocode : Obligations.PmstepIsThePseudocode := pmStep_toNat

/-! ## Linearity (R107 a) -/

theorem shiftIn_xor (c₁ c₂ : Chk) (v₁ v₂ : Symbol) :
    shiftIn (c₁ ^^^ c₂) (v₁ ^^^ v₂) = shiftIn c₁ v₁ ^^^ shiftIn c₂ v₂ := by
  refine BitVec.eq_of_getLsbD_eq fun j hj => ?_
  rw [BitVec.getLsbD_xor, shiftIn_getLsbD _ _ hj, shiftIn_getLsbD _ _ hj, shiftIn_getLsbD _ _ hj]
  split <;> exact BitVec.getLsbD_xor

theorem applyTap_xor (top₁ top₂ : BitVec 5) (c₁ c₂ : Chk) (k : Nat) :
    applyTap (top₁ ^^^ top₂) (c₁ ^^^ c₂) k = applyTap top₁ c₁ k ^^^ applyTap top₂ c₂ k := by
  refine BitVec.eq_of_getLsbD_eq fun j _ => ?_
  simp only [BitVec.getLsbD_xor, applyTap_getLsbD, Bool.and_xor_distrib_right, Bool.xor_assoc, Bool.xor_left_comm]

theorem foldl_applyTap_xor (ks : List Nat) (top₁ top₂ : BitVec 5) (c₁ c₂ : Chk) :
    ks.foldl (applyTap (top₁ ^^^ top₂)) (c₁ ^^^ c₂) =
      ks.foldl (applyTap top₁) c₁ ^^^ ks.foldl (applyTap top₂) c₂ := by
  induction ks generalizing c₁ c₂ with
  | nil => rfl
  | cons k ks ih => simp only [List.foldl_cons, applyTap_xor, ih]

/-- R107 (a): the step is linear over GF(2). -/
theorem pmStep_xor (c₁ c₂ : Chk) (v₁ v₂ : Symbol) :
    pmStep (c₁ ^^^ c₂) (v₁ ^^^ v₂) = pmStep c₁ v₁ ^^^ pmStep c₂ v₂ := by
  have htop : topOf (c₁ ^^^ c₂) = topOf c₁ ^^^ topOf c₂ := BitVec.extractLsb'_xor
  rw [pmStep_eq, htop, shiftIn_xor, foldl_applyTap_xor]
  rfl

/-- R107 (a): the symbol enters by XOR alone. -/
theorem pmStep_eq_xor_symbol (c : Chk) (v : Symbol) : pmStep c v = pmStep c 0 ^^^ v.zeroExtend 30 := by
  have hzero : pmStep 0 v = v.zeroExtend 30 := by revert v; decide
  calc pmStep c v = pmStep (c ^^^ 0) (0 ^^^ v) := congrArg₂ pmStep BitVec.xor_zero.symm BitVec.zero_xor.symm
    _ = pmStep c 0 ^^^ v.zeroExtend 30 := by rw [pmStep_xor, hzero]

/-! ## Shifts without a tap (R103) -/

/-- R101: while the top five bits are clear, a step only appends its symbol. -/
theorem pmStep_toNat_of_lt {c : Chk} (hc : c.toNat < 2 ^ 25) (v : Symbol) :
    (pmStep c v).toNat = c.toNat * 32 + v.toNat := by
  have htop : c.toNat >>> 25 = 0 := Nat.shiftRight_eq_zero c.toNat 25 hc
  have hlow : c.toNat &&& 0x1ffffff = c.toNat := Nat.and_two_pow_sub_one_of_lt_two_pow hc
  have hstep : (pmStep c v).toNat = (c.toNat <<< 5) ^^^ v.toNat := by
    simp [pmStep_toNat, Ref.pmstep, htop, hlow]
  have hdiv : ((c.toNat <<< 5) ^^^ v.toNat) / 2 ^ 5 = c.toNat := by
    rw [Nat.xor_div_two_pow, Nat.shiftLeft_eq, Nat.mul_div_cancel _ (by decide), Nat.div_eq_of_lt v.isLt, Nat.xor_zero]
  have hmod : ((c.toNat <<< 5) ^^^ v.toNat) % 2 ^ 5 = v.toNat := by
    rw [Nat.xor_mod_two_pow, Nat.shiftLeft_eq, Nat.mul_mod_left, Nat.mod_eq_of_lt v.isLt, Nat.zero_xor]
  omega

/-- A symbol appended to a number, in base 32. -/
def appendSymbol (n : Nat) (v : Symbol) : Nat := n * 32 + v.toNat

/-- R103: a run that stays within 30 bits only appends its symbols. -/
theorem foldl_pmStep_toNat_of_le {c : Chk} {xs : List Symbol} (h : (c.toNat + 1) * 32 ^ xs.length ≤ 2 ^ 30) :
    (xs.foldl pmStep c).toNat = xs.foldl appendSymbol c.toNat := by
  induction xs generalizing c with
  | nil => rfl
  | cons x xs ih =>
    rw [List.length_cons, Nat.pow_succ', ← Nat.mul_assoc] at h
    have hc : (c.toNat + 1) * 32 ≤ 2 ^ 30 := (Nat.le_mul_of_pos_right _ (by positivity)).trans h
    have hstep : (pmStep c x).toNat = appendSymbol c.toNat x := pmStep_toNat_of_lt (by omega) x
    have hle : (pmStep c x).toNat + 1 ≤ (c.toNat + 1) * 32 := by
      have := x.isLt
      rw [hstep, appendSymbol]
      omega
    rw [List.foldl_cons, List.foldl_cons, ← hstep]
    exact ih ((Nat.mul_le_mul_right _ hle).trans h)

theorem le_foldl_appendSymbol (n : Nat) (xs : List Symbol) : n * 32 ^ xs.length ≤ xs.foldl appendSymbol n := by
  induction xs generalizing n with
  | nil => simp
  | cons x xs ih =>
    calc n * 32 ^ (xs.length + 1) = n * 32 * 32 ^ xs.length := by rw [Nat.pow_succ', Nat.mul_assoc]
      _ ≤ appendSymbol n x * 32 ^ xs.length := Nat.mul_le_mul_right _ (Nat.le_add_right ..)
      _ ≤ xs.foldl appendSymbol (appendSymbol n x) := ih _

theorem polymod_toNat_of_length_le {xs : List Symbol} (hxs : xs.length ≤ 5) :
    (polymod xs).toNat = xs.foldl appendSymbol 1 := by
  refine foldl_pmStep_toNat_of_le (c := seed) ?_
  calc 2 * 32 ^ xs.length ≤ 2 * 32 ^ 5 := Nat.mul_le_mul_left 2 (Nat.pow_le_pow_right (by decide) hxs)
    _ ≤ 2 ^ 30 := by decide

/-- Settles O26: five symbols after the seed stay within 30 bits; what one symbol or more leaves is at least 32. -/
theorem shortRunsArePureShifts : Obligations.ShortRunsArePureShifts := by
  refine ⟨fun xs hxs => polymod_toNat_of_length_le hxs, fun h d hlen => ?_⟩
  have hrun : (expand h ++ d).length = 2 * h.length + 1 + d.length := by rw [List.length_append, expand_length]
  have hge : 1 * 32 ^ 1 ≤ (polymod (expand h ++ d)).toNat := by
    rw [polymod_toNat_of_length_le (hrun.trans_le hlen)]
    refine le_trans (Nat.mul_le_mul_left 1 (Nat.pow_le_pow_right (by decide) ?_)) (le_foldl_appendSymbol 1 _)
    omega
  rw [verify, beq_eq_false_iff_ne]
  intro hres
  rw [hres] at hge
  exact absurd hge (by decide)

/-! ## Injectivity (R107 b, c) -/

/-- R101: what the taps of `TOP` XOR onto the shifted accumulator. -/
def taps (top : BitVec 5) : Chk := [0, 1, 2, 3, 4].foldl (applyTap top) 0

theorem pmStep_eq_taps_xor_shiftIn (c : Chk) (v : Symbol) : pmStep c v = taps (topOf c) ^^^ shiftIn c v :=
  calc pmStep c v = [0, 1, 2, 3, 4].foldl (applyTap (topOf c ^^^ 0)) (0 ^^^ shiftIn c v) :=
        congrArg₂ (fun top chk => [0, 1, 2, 3, 4].foldl (applyTap top) chk) BitVec.xor_zero.symm BitVec.zero_xor.symm
    _ = taps (topOf c) ^^^ [0, 1, 2, 3, 4].foldl (applyTap 0) (shiftIn c v) := foldl_applyTap_xor ..
    _ = taps (topOf c) ^^^ shiftIn c v := rfl

/-- R107: the low five bits of the taps tell every `TOP` from 0. -/
theorem eq_zero_of_taps_low_eq_zero : ∀ top : BitVec 5, (taps top).extractLsb' 0 5 = 0 → top = 0 := by decide

theorem shiftIn_zero_low (c : Chk) : (shiftIn c 0).extractLsb' 0 5 = 0 := by
  refine BitVec.eq_of_getLsbD_eq fun j hj => ?_
  rw [BitVec.getLsbD_extractLsb', Nat.zero_add, shiftIn_getLsbD c 0 (by omega), if_pos hj, decide_eq_true hj,
    Bool.true_and]

theorem toNat_lt_of_topOf_eq_zero {c : Chk} (h : topOf c = 0) : c.toNat < 2 ^ 25 := by
  have htop : c.toNat / 2 ^ 25 % 2 ^ 5 = 0 := by
    rw [← Nat.shiftRight_eq_div_pow, ← BitVec.extractLsb'_toNat]
    exact congrArg BitVec.toNat h
  omega

/-- R107 (b): only the accumulator 0 steps to 0: the low five bits say its `TOP` is 0, and then the step is a shift. -/
theorem eq_zero_of_pmStep_eq_zero {c : Chk} (h : pmStep c 0 = 0) : c = 0 := by
  have htaps : taps (topOf c) = shiftIn c 0 := BitVec.xor_eq_zero_iff.mp ((pmStep_eq_taps_xor_shiftIn c 0).symm.trans h)
  have htop : topOf c = 0 := eq_zero_of_taps_low_eq_zero _ (by rw [htaps, shiftIn_zero_low])
  have hshift : (0 : Chk).toNat = c.toNat * 32 := h ▸ pmStep_toNat_of_lt (toNat_lt_of_topOf_eq_zero htop) 0
  exact BitVec.eq_of_toNat_eq ((Nat.mul_eq_zero.mp hshift.symm).resolve_right (by decide))

theorem pmStep_injective (v : Symbol) : Function.Injective fun c : Chk => pmStep c v := by
  intro c₁ c₂ h
  have hker : pmStep (c₁ ^^^ c₂) (v ^^^ v) = 0 := by
    rw [pmStep_xor]
    exact BitVec.xor_eq_zero_iff.mpr h
  rw [BitVec.xor_self] at hker
  exact BitVec.xor_eq_zero_iff.mp (eq_zero_of_pmStep_eq_zero hker)

theorem foldl_pmStep_injective (xs : List Symbol) : Function.Injective (xs.foldl pmStep) := by
  induction xs with
  | nil => exact Function.injective_id
  | cons x xs ih => exact ih.comp (pmStep_injective x)

theorem pmStep_symbol_injective (c : Chk) : Function.Injective (pmStep c) := by
  intro v w h
  rw [pmStep_eq_xor_symbol c v, pmStep_eq_xor_symbol c w, BitVec.xor_right_inj] at h
  have hlow := congrArg (BitVec.setWidth 5) h
  simpa using hlow

/-- Settles O24: the step is linear, its kernel is 0, and so a changed symbol makes a difference that no further step can
undo. -/
theorem pmstepIsLinearAndSensitive : Obligations.PmstepIsLinearAndSensitive := by
  have : Finite Chk := .of_equiv _ BitVec.equivFin.symm.toEquiv
  refine ⟨pmStep_xor, pmStep_eq_xor_symbol, Finite.injective_iff_bijective.mp (pmStep_injective 0), ?_⟩
  intro before after x y hxy heq
  rw [polymod_append, polymod_append] at heq
  exact hxy (pmStep_symbol_injective _ (foldl_pmStep_injective after heq))

end Sys2Proof.Laws
end

section
/-! PROOF. CREATE against the pseudocode, and its checksum verifies (R73, R106, R107). -/

namespace Sys2Proof.Laws

open Sys2Proof.Machine

/-! ## The checksum symbols of a value (R73) -/

theorem ofSymbols_checksumSymbols (poly : Chk) :
    ofSymbols (checksumSymbols poly) =
      [(poly.toNat >>> 25) &&& 31, (poly.toNat >>> 20) &&& 31, (poly.toNat >>> 15) &&& 31, (poly.toNat >>> 10) &&& 31,
        (poly.toNat >>> 5) &&& 31, poly.toNat &&& 31] := by
  have hlow : ∀ n, n &&& 31 = n % 2 ^ 5 := fun n => Nat.and_two_pow_sub_one_eq_mod n 5
  simp only [hlow]
  rfl

/-- R106: CREATE is the pseudocode. -/
theorem ofSymbols_create (h : List Code) (xs : List Symbol) :
    ofSymbols (create h xs) = Ref.create (ofCodes h) (ofSymbols xs) := by
  have hpoly : (polymod (expand h ++ xs ++ List.replicate 6 0#5) ^^^ residue).toNat =
      Ref.polymod (Ref.expand (ofCodes h) ++ ofSymbols xs ++ [0, 0, 0, 0, 0, 0]) ^^^ 1 := by
    rw [BitVec.toNat_xor, polymod_toNat, ofSymbols_append, ofSymbols_append, ofSymbols_expand]
    rfl
  rw [create, ofSymbols_checksumSymbols, hpoly]
  rfl

/-- R73: the six symbols, run from an empty accumulator, are the value again. -/
theorem foldl_pmStep_checksumSymbols (poly : Chk) : (checksumSymbols poly).foldl pmStep 0 = poly := by
  refine BitVec.eq_of_toNat_eq ?_
  have hrun : ((checksumSymbols poly).foldl pmStep 0).toNat = (checksumSymbols poly).foldl appendSymbol 0 :=
    foldl_pmStep_toNat_of_le (by simp)
  have hbase : (checksumSymbols poly).foldl appendSymbol 0 =
      (ofSymbols (checksumSymbols poly)).foldl (fun n e => n * 32 + e) 0 := List.foldl_map.symm
  have hlow : ∀ n, n &&& 31 = n % 32 := fun n => Nat.and_two_pow_sub_one_eq_mod n 5
  have hpoly := poly.isLt
  simp only [hrun, hbase, ofSymbols_checksumSymbols, hlow, Nat.shiftRight_eq_div_pow, List.foldl_cons, List.foldl_nil]
  omega

/-! ## Why it verifies -/

/-- R107 (a), over a run: what a symbol sequence adds to a run over as many zeros. -/
theorem foldl_pmStep_xor (c₁ c₂ : Chk) (xs : List Symbol) :
    xs.foldl pmStep (c₁ ^^^ c₂) = (List.replicate xs.length 0#5).foldl pmStep c₁ ^^^ xs.foldl pmStep c₂ := by
  induction xs generalizing c₁ c₂ with
  | nil => rfl
  | cons x xs ih =>
    have hstep : pmStep (c₁ ^^^ c₂) x = pmStep c₁ 0#5 ^^^ pmStep c₂ x :=
      (congrArg (pmStep (c₁ ^^^ c₂)) BitVec.zero_xor.symm).trans (pmStep_xor ..)
    rw [List.length_cons, List.replicate_succ, List.foldl_cons, List.foldl_cons, List.foldl_cons, hstep, ih]

/-- R106: appending the checksum of a value to the run it was made from leaves `RESIDUE`. -/
theorem verify_append_create (h : List Code) (d : List Symbol) : verify h (d ++ create h d) = true := by
  rw [verify, beq_iff_eq, ← List.append_assoc, polymod_append]
  generalize hc : polymod (expand h ++ d) = c
  have hcreate : create h d = checksumSymbols ((List.replicate 6 0#5).foldl pmStep c ^^^ residue) := by
    rw [create, polymod_append, hc]
  calc (create h d).foldl pmStep c = (create h d).foldl pmStep (c ^^^ 0) :=
        congrArg (fun chk => (create h d).foldl pmStep chk) BitVec.xor_zero.symm
    _ = (List.replicate 6 0#5).foldl pmStep c ^^^ (create h d).foldl pmStep 0 := foldl_pmStep_xor ..
    _ = residue := by
      rw [hcreate, foldl_pmStep_checksumSymbols, ← BitVec.xor_assoc, BitVec.xor_self, BitVec.zero_xor]

end Sys2Proof.Laws
end

section
/-! PROOF. The checksum commands: when EXPAND, POLYMOD, VERIFY and CREATE are refused, and what they deliver (R103 to
R106, R108, R193). -/

namespace Sys2Proof.Laws

open Sys2Proof.Machine

/-! ## The answer of a command, from its ending -/

/-- R190, R193: a command whose ending is a refusal refuses and delivers nothing. -/
theorem exec_of_refused {i : Instr} {s : State} (h : (endingOf i s.h s.d).status = .refused) :
    ∃ t, exec i s = .next t ∧ t.status = .refused ∧ Ref.KeepsInputs s t ∧ Ref.KeepsRegisters s t ∧
      Ref.DeliversNothing s t := by
  obtain ⟨hin, hreg, hnothing⟩ := complete_of_refused (s := s) (u := unitsOf i) h
  exact ⟨_, exec_eq i s, (complete_status ..).trans h, hin, hreg, hnothing⟩

theorem refuses_of_refused {i : Instr} {s : State} (h : (endingOf i s.h s.d).status = .refused) : Ref.Refuses i s := by
  obtain ⟨t, hexec, hst, hin, hreg, -⟩ := exec_of_refused h
  exact ⟨t, hexec, hst, hin, hreg⟩

/-- R27, R190: the record after a command that ends `ok`. -/
theorem exec_of_ok {i : Instr} {s : State} {res : Results} (h : endingOf i s.h s.d = .ok res) :
    ∃ t, exec i s = .next t ∧ t.status = .ok ∧ t.o = res.o.getD (freeO s.freeIx) ∧
      t.r = res.r.getD (Config.freeR s.freeIx) ∧ t.v = res.v.getD (Config.freeV s.freeIx) ∧ Ref.KeepsInputs s t := by
  obtain ⟨-, -, -, -, -, hst, ho, -, hr, hv⟩ := complete_spec s (unitsOf i) (endingOf i s.h s.d)
  rw [h] at hst ho hr hv
  exact ⟨_, (exec_eq i s).trans (by rw [h]), hst, ho, hr, hv, complete_keepsInputs _ _ _⟩

/-! ## The reasons to refuse (R193) -/

theorem symbolRefusal_ne_none {d : List Elem} : symbolRefusal d ≠ none ↔ ∃ e ∈ d, 31 < e := by
  simp [symbolRefusal_eq_none, areSymbols_iff]

theorem lengthRefusal_ne_none {lens : List Nat} : lengthRefusal lens ≠ none ↔ ∃ n ∈ lens, fitsSeq n = false := by
  simp [lengthRefusal_eq_none]

section Guards
variable {d : List Elem} {lens : List Nat}

/-- R193: the guard of a command on lengths alone, passed. -/
theorem unlessRefused_of_lengths (hlens : ∀ n ∈ lens, fitsSeq n = true) (e : Ending) :
    unlessRefused [lengthRefusal lens] e = e := by
  rw [(lengthRefusal_eq_none lens).mpr hlens, unlessRefused_none, unlessRefused_nil]

/-- R193: the guard of a command on lengths alone, refusing. -/
theorem unlessRefused_lengths_refused {res : Results} (h : ∃ n ∈ lens, fitsSeq n = false) :
    (unlessRefused [lengthRefusal lens] (.ok res)).status = .refused :=
  (unlessRefused_status_eq_refused (by simp [Ending.status])).mpr
    ⟨_, List.mem_singleton_self _, lengthRefusal_ne_none.mpr h⟩

/-- R108, R193: the guard of a command on symbols, passed. -/
theorem unlessRefused_of_symbols (hd : ∀ e ∈ d, e ≤ 31) (hlens : ∀ n ∈ lens, fitsSeq n = true) (e : Ending) :
    unlessRefused [symbolRefusal d, lengthRefusal lens] e = e := by
  have hsymbols : symbolRefusal d = none := (symbolRefusal_eq_none d).mpr ((areSymbols_iff d).mpr hd)
  rw [hsymbols, unlessRefused_none, unlessRefused_of_lengths hlens]

/-- R108, R193: the guard of a command on symbols, refusing. -/
theorem unlessRefused_symbols_refused {res : Results} (h : (∃ e ∈ d, 31 < e) ∨ ∃ n ∈ lens, fitsSeq n = false) :
    (unlessRefused [symbolRefusal d, lengthRefusal lens] (.ok res)).status = .refused := by
  rw [unlessRefused_status_eq_refused (by simp [Ending.status]), List.exists_mem_cons_iff, List.exists_mem_cons_iff,
    symbolRefusal_ne_none, lengthRefusal_ne_none]
  exact h.imp_right .inl

end Guards

/-! ## The commands, settled -/

/-- Settles O30: the four commands have the symbol contract first in their guard. -/
theorem symbolContractIsEnforced : Obligations.SymbolContractIsEnforced := by
  intro i s hi hbroken
  simp only [List.mem_cons, List.not_mem_nil, or_false] at hi
  obtain rfl | rfl | rfl | rfl := hi
  all_goals exact exec_of_refused (unlessRefused_symbols_refused (.inl hbroken))

/-- Settles O27: the guard of EXPAND is on lengths alone, and the delivered sequence is the pseudocode's. -/
theorem expandDeliversTheExpansion : Obligations.ExpandDeliversTheExpansion := by
  intro s
  refine ⟨fun hh hout => ?_, fun h => refuses_of_refused (unlessRefused_lengths_refused (by simpa using h))⟩
  obtain ⟨t, hexec, hst, ho, -, -, hin⟩ :=
    exec_of_ok (i := .expand) (s := s) (unlessRefused_of_lengths (by simp [hh, hout]) _)
  exact ⟨t, hexec, hst, ho.trans (ofSymbols_expand s.h), hin⟩

/-- Settles O25: the guard on symbols, and the run is the pseudocode's. -/
theorem polymodDeliversTheAccumulator : Obligations.PolymodDeliversTheAccumulator := by
  intro s
  refine ⟨fun hd hlen => ?_, fun h => refuses_of_refused (unlessRefused_symbols_refused (by simpa using h))⟩
  obtain ⟨t, hexec, hst, -, hr, -, hin⟩ :=
    exec_of_ok (i := .polymod) (s := s) (unlessRefused_of_symbols hd (by simpa using hlen) _)
  refine ⟨t, hexec, hst, ?_, hin⟩
  rw [hr, Option.getD_some, polymod_toNat, ofSymbols_toSymbols _ hd]

/-- Settles O28: the guard on symbols, and the run is the pseudocode's. -/
theorem verifyDeliversTheTruthValue : Obligations.VerifyDeliversTheTruthValue := by
  intro s
  refine ⟨fun hd hh hlen => ?_, fun h => refuses_of_refused (unlessRefused_symbols_refused (by simpa using h))⟩
  obtain ⟨t, hexec, hst, -, -, hv, hin⟩ :=
    exec_of_ok (i := .verify) (s := s) (unlessRefused_of_symbols hd (by simp [hh, hlen]) _)
  refine ⟨t, hexec, hst, ?_, hin⟩
  rw [hv, Option.getD_some]
  simp only [verify_iff, ofSymbols_toSymbols _ hd]
  rfl

/-- Settles O29: the guard on symbols (six symbols fit every build), the pseudocode's checksum, and linearity. -/
theorem createDeliversAVerifyingChecksum : Obligations.CreateDeliversAVerifyingChecksum := by
  have hsix : fitsSeq 6 = true := rfl
  refine ⟨fun s => ⟨fun hd hh hlen => ?_, fun h => ?_⟩, verify_append_create⟩
  · obtain ⟨t, hexec, hst, ho, -, -, hin⟩ :=
      exec_of_ok (i := .create) (s := s) (unlessRefused_of_symbols hd (by simp [hh, hlen, hsix]) _)
    refine ⟨t, hexec, hst, ?_, hin⟩
    rw [ho, Option.getD_some, ofSymbols_create, ofSymbols_toSymbols _ hd]
  · exact refuses_of_refused (unlessRefused_symbols_refused (by simpa [hsix] using h))

end Sys2Proof.Laws
end

section
/-! PROOF. What a conversion carries fixes how it ends (R128), and the round trip (R130): padding one way and dropping
zeros the other are one relation between the two bit streams. -/

namespace Sys2Proof.Laws

open Sys2Proof.Machine

/-! ## A conversion is known by what it carries (R128) -/

/-- Values of `t` bits are known by their stream. -/
theorem stream_injective {t : Nat} {xs ys : List Nat} (hx : OutFits t xs) (hy : OutFits t ys)
    (hlen : xs.length = ys.length) (h : Ref.stream t xs = Ref.stream t ys) : xs = ys := by
  rw [← groups_stream hx [], ← groups_stream hy [], hlen, h]

/-- R121: whatever stands in `ACC`, a conversion with `BITS` 0 and no output has taken in nothing. -/
theorem regrouped_start (f acc : Nat) {t : Nat} (ht : 1 ≤ t) : Regrouped f t 0 ⟨acc, 0, []⟩ where
  total := by simp
  bits_lt := ht
  outFits := fun _ he => absurd he List.not_mem_nil

/-- R122, R127, R128: on values in range the loop succeeds, from any start value of `ACC`, and carries their stream. -/
theorem cbValues_of_fits {f t : Nat} {d : List Elem} (acc : Nat) (ht : 1 ≤ t) (hd : OutFits f d) :
    ∃ c, cbValues f t d ⟨acc, 0, []⟩ = some c ∧ Regrouped f t d.length c ∧ carried t c = Ref.stream f d := by
  have hsome : cbValues f t d ⟨acc, 0, []⟩ ≠ none := fun hnone => by
    obtain ⟨v, hv, hle⟩ := cbValues_eq_none.mp hnone
    exact absurd (hd v hv) (Nat.not_lt.mpr hle)
  obtain ⟨c, hc⟩ := Option.ne_none_iff_exists'.mp hsome
  have hreg := (regrouped_start f acc ht).cbValues hc
  rw [Nat.zero_add] at hreg
  exact ⟨c, hc, hreg, carried_cbValues ht hc⟩

/-- R128 (c): of the state of a conversion, what is carried shows all but the bits of `ACC` above `BITS`. -/
theorem Regrouped.eq_of_carried {f t n : Nat} {c c' : Conv} (hc : Regrouped f t n c) (hc' : Regrouped f t n c')
    (h : carried t c = carried t c') :
    c.out = c'.out ∧ c.bits = c'.bits ∧ Ref.digits c.bits c.acc = Ref.digits c'.bits c'.acc := by
  have hlen : c.out.length = c'.out.length := hc.length_strict.trans hc'.length_strict.symm
  obtain ⟨hstream, hdigits⟩ := List.append_inj h (by rw [stream_length, stream_length, hlen])
  have hbits : c.bits = c'.bits := by simpa using congrArg List.length hdigits
  exact ⟨stream_injective hc.outFits hc'.outFits hlen hstream, hbits, hdigits⟩

/-- R125, R126, R128 (c): CBFINISH reads no more than what is carried. -/
theorem Regrouped.cbFinish_eq_of_carried {f t n : Nat} {c c' : Conv} (hc : Regrouped f t n c)
    (hc' : Regrouped f t n c') (h : carried t c = carried t c') (pad : Bool) (w : Nat) :
    Machine.cbFinish pad w t c = Machine.cbFinish pad w t c' := by
  obtain ⟨hout, hbits, hdigits⟩ := hc.eq_of_carried hc' h
  cases pad with
  | true =>
    refine congrArg some ?_
    rw [cbFinishPad_eq hc.bits_lt, cbFinishPad_eq hc'.bits_lt, hdigits, hbits, hout]
  | false =>
    refine (cbFinishStrict_eq w hc.bits_lt).trans (Eq.trans ?_ (cbFinishStrict_eq w hc'.bits_lt).symm)
    rw [hdigits, hbits, hout]

theorem convertbits_eq_bind (d : List Elem) (f t : Nat) (pad : Bool) :
    convertbits d f t pad = (cbValues f t d cbStart).bind (cbFinish pad f t) := by
  unfold convertbits
  cases cbValues f t d cbStart <;> rfl

/-- R122: a conversion that succeeds had every value in range. -/
theorem fits_of_convertbits {d out : List Elem} {f t : Nat} {pad : Bool} (h : convertbits d f t pad = some out) :
    OutFits f d := by
  obtain ⟨c, hc, -⟩ := convertbits_eq_some.mp h
  intro v hv
  by_contra hlt
  rw [cbValues_eq_none.mpr ⟨v, hv, Nat.le_of_not_lt hlt⟩] at hc
  cases hc

/-- Settles O33: the loop succeeds and carries the stream of its input, and an absorb loses no valid bit to the mask. -/
theorem converterKeepsItsInvariants : Obligations.ConverterKeepsItsInvariants := by
  intro f t d _ ht hd
  obtain ⟨c, hc, hreg, hcarried⟩ := cbValues_of_fits 0 ht hd
  have hlt := hreg.bits_lt
  refine ⟨c, hc, hlt, hcarried.symm, fun v hv => ⟨?_, and_mask_lt _ _, digits_cbAbsorb hlt hv⟩,
    fun c' => emitLoop_bits_lt t ht _ _ le_rfl⟩
  rw [cbAbsorb_bits]
  omega

/-- Settles O34: the range test does not read `ACC`, and two loops over one input in range carry the same stream. -/
theorem startValueOfAccIsUnobservable : Obligations.StartValueOfAccIsUnobservable := by
  intro pad f t acc d _ ht
  rw [convertbits_eq_bind]
  by_cases hd : OutFits f d
  · obtain ⟨c, hc, hreg, hcarried⟩ := cbValues_of_fits acc ht hd
    obtain ⟨c₀, hc₀, hreg₀, hcarried₀⟩ := cbValues_of_fits 0 ht hd
    rw [hc, show cbValues f t d cbStart = some c₀ from hc₀]
    exact hreg.cbFinish_eq_of_carried hreg₀ (hcarried.trans hcarried₀.symm) pad f
  · have hbad : ∃ v ∈ d, 2 ^ f ≤ v := by simpa [OutFits] using hd
    rw [cbValues_eq_none.mpr hbad, cbValues_eq_none.mpr hbad]

/-! ## The two ways as relations between streams (R129, R130) -/

/-- R125: the digits of the leftover value are the leftover bits, then zeros. -/
theorem digits_leftover {t : Nat} {c : Conv} (hb : c.bits < t) :
    Ref.digits t (leftover t c) = Ref.digits c.bits c.acc ++ List.replicate (t - c.bits) false := by
  rw [leftover, digits_and_mask le_rfl, ← digits_of_zero, ← digits_shiftLeft_or (Nat.two_pow_pos _), Nat.or_zero,
    Nat.add_sub_cancel' (Nat.le_of_lt hb)]

/-- R125, R129: CBFINISH with padding puts out what is carried, then fewer than `t` zeros. -/
theorem exists_stream_cbFinishPad {t : Nat} {c : Conv} (hb : c.bits < t) :
    ∃ k < t, Ref.stream t (cbFinishPad t c) = carried t c ++ List.replicate k false := by
  by_cases hpos : 0 < c.bits
  · refine ⟨t - c.bits, by omega, ?_⟩
    rw [cbFinishPad, if_pos hpos, stream_append, stream_singleton, digits_leftover hb, ← List.append_assoc, carried]
  · have hzero : c.bits = 0 := Nat.eq_zero_of_not_pos hpos
    exact ⟨0, Nat.zero_lt_of_lt hb, by simp [cbFinishPad, carried, hzero]⟩

/-- Fewer than `t` zeros fill a bit string up to whole `t`-bit values in one way. -/
theorem eq_of_stream_eq_append_replicate {t k k' : Nat} {xs ys : List Nat} {bits : List Bool} (hx : OutFits t xs)
    (hy : OutFits t ys) (hk : k < t) (hk' : k' < t) (hxs : Ref.stream t xs = bits ++ List.replicate k false)
    (hys : Ref.stream t ys = bits ++ List.replicate k' false) : xs = ys := by
  have hxlen : xs.length * t = bits.length + k := by simpa [stream_length] using congrArg List.length hxs
  have hylen : ys.length * t = bits.length + k' := by simpa [stream_length] using congrArg List.length hys
  have hmod : bits.length + k ≡ bits.length + k' [MOD t] := by
    rw [← hxlen, ← hylen]
    simp [Nat.ModEq]
  have hkk : k = k' := hmod.add_left_cancel'.eq_of_lt_of_lt hk hk'
  have hlen : xs.length = ys.length :=
    Nat.eq_of_mul_eq_mul_right (Nat.zero_lt_of_lt hk) (by rw [hxlen, hylen, hkk])
  exact stream_injective hx hy hlen (by rw [hxs, hys, hkk])

/-- R125, R129: the padded conversion succeeds on values in range, with their stream and fewer than `t` zeros. -/
theorem exists_convertbits_pad {d : List Elem} {f t : Nat} (ht : 1 ≤ t) (hd : OutFits f d) :
    ∃ out, convertbits d f t true = some out ∧ OutFits t out ∧
      ∃ k < t, Ref.stream t out = Ref.stream f d ++ List.replicate k false := by
  obtain ⟨c, hc, hreg, hcarried⟩ := cbValues_of_fits 0 ht hd
  refine ⟨cbFinishPad t c, convertbits_eq_some.mpr ⟨c, hc, rfl⟩, hreg.outFits_pad, ?_⟩
  rw [← hcarried]
  exact exists_stream_cbFinishPad hreg.bits_lt

/-- R125, R129: and it gives nothing else. -/
theorem convertbits_pad_eq_some_iff {d out : List Elem} {f t : Nat} (ht : 1 ≤ t) :
    convertbits d f t true = some out ↔ OutFits f d ∧ OutFits t out ∧
      ∃ k < t, Ref.stream t out = Ref.stream f d ++ List.replicate k false := by
  constructor
  · intro h
    have hd := fits_of_convertbits h
    obtain ⟨out', h', hspec⟩ := exists_convertbits_pad ht hd
    obtain rfl : out = out' := Option.some.inj (h.symm.trans h')
    exact ⟨hd, hspec⟩
  · rintro ⟨hd, hout, k, hk, hstream⟩
    obtain ⟨out', h', hout', k', hk', hstream'⟩ := exists_convertbits_pad ht hd
    rw [h', eq_of_stream_eq_append_replicate hout' hout hk' hk hstream' hstream]

/-- R126: the strict CBFINISH puts out the whole groups when the bits left are zeros and fewer than an input value. -/
theorem cbFinishStrict_eq_some_iff {f t : Nat} {c : Conv} {out : List Elem} (hb : c.bits < t) :
    cbFinishStrict f t c = some out ↔
      c.bits < f ∧ Ref.digits c.bits c.acc = List.replicate c.bits false ∧ c.out = out := by
  have hzeros : ¬ (Ref.digits c.bits c.acc).any id = true ↔
      Ref.digits c.bits c.acc = List.replicate c.bits false := by
    simp [List.eq_replicate_iff]
  rw [cbFinishStrict_eq f hb, Option.ite_none_left_eq_some, not_or, hzeros, Nat.not_le, Option.some.injEq, and_assoc]

/-- R126, R129: the strict conversion of values in range is the stream less zeros, fewer than either width. -/
theorem convertbits_strict_eq_some_iff {d out : List Elem} {f t : Nat} (ht : 1 ≤ t) :
    convertbits d f t false = some out ↔ OutFits f d ∧ OutFits t out ∧
      ∃ k < t, k < f ∧ Ref.stream f d = Ref.stream t out ++ List.replicate k false := by
  constructor
  · intro h
    have hd := fits_of_convertbits h
    obtain ⟨c, hc, hreg, hcarried⟩ := cbValues_of_fits 0 ht hd
    rw [convertbits_eq_bind, show cbValues f t d cbStart = some c from hc] at h
    obtain ⟨hlt, hzeros, rfl⟩ := (cbFinishStrict_eq_some_iff hreg.bits_lt).mp h
    exact ⟨hd, hreg.outFits, c.bits, hreg.bits_lt, hlt, by rw [← hcarried, carried, hzeros]⟩
  · rintro ⟨hd, hout, k, hk, hkf, hstream⟩
    obtain ⟨c, hc, hreg, hcarried⟩ := cbValues_of_fits 0 ht hd
    have hlen : d.length * f = out.length * t + k := by simpa [stream_length] using congrArg List.length hstream
    have hreg' : Regrouped f t d.length ⟨0, k, out⟩ := ⟨hlen.symm, hk, hout⟩
    have hcarried' : carried t ⟨0, k, out⟩ = Ref.stream f d := by rw [hstream, carried, digits_of_zero]
    have hend : cbFinishStrict f t ⟨0, k, out⟩ = some out :=
      (cbFinishStrict_eq_some_iff hk).mpr ⟨hkf, digits_of_zero k, rfl⟩
    exact convertbits_eq_some.mpr
      ⟨c, hc, (hreg.cbFinish_eq_of_carried hreg' (hcarried.trans hcarried'.symm) false f).trans hend⟩

/-- R130: from wide values to narrow ones, the strict way back undoes the padded conversion and nothing else. -/
theorem convertbits_pad_iff_strict {bytes syms : List Elem} {f t : Nat} (ht : 1 ≤ t) (htf : t ≤ f) :
    convertbits bytes f t true = some syms ↔ convertbits syms t f false = some bytes := by
  rw [convertbits_pad_eq_some_iff ht, convertbits_strict_eq_some_iff (ht.trans htf)]
  constructor
  · rintro ⟨hbytes, hsyms, k, hk, hstream⟩
    exact ⟨hsyms, hbytes, k, hk.trans_le htf, hk, hstream⟩
  · rintro ⟨hsyms, hbytes, k, -, hk, hstream⟩
    exact ⟨hbytes, hsyms, k, hk, hstream⟩

/-- Settles O32: bytes in range have a padded conversion, and the strict way back is its inverse. -/
theorem convertbitsRoundTrip : Obligations.ConvertbitsRoundTrip := by
  have hinv (bytes syms : List Elem) :
      convertbits bytes 8 5 true = some syms ↔ convertbits syms 5 8 false = some bytes :=
    convertbits_pad_iff_strict (by decide) (by decide)
  refine ⟨fun bytes hbytes => ?_, fun syms bytes => (hinv bytes syms).mpr⟩
  have hfits : OutFits 8 bytes := fun b hb => Nat.lt_succ_of_le (hbytes b hb)
  obtain ⟨syms, hpad, -⟩ := exists_convertbits_pad (t := 5) (by decide) hfits
  exact ⟨syms, hpad, (hinv bytes syms).mp hpad⟩

end Sys2Proof.Laws
end

section
/-! PROOF. The strings of unit U3, split at their separator: what B32ENC makes, its way back through B32DEC, and a changed
data character (R107, R144, R149, R157, R158). -/

namespace Sys2Proof.Laws

open Sys2Proof.Machine

/-! ## LOWER on single characters (R71, R142) -/

theorem lower_of_not_upper {c : Elem} (h : ¬ Ref.Upper c) : lower c = c := by
  rw [lower_eq_toLower]
  exact if_neg h

/-- R71: no other character has the separator as its lowercase form. -/
theorem lower_eq_separator_iff (c : Elem) : lower c = separator ↔ c = separator := by
  have hnat : ∀ c : Nat, Ref.toLower c = 0x31 ↔ c = 0x31 := by
    intro c
    unfold Ref.toLower
    split <;> omega
  rw [lower_eq_toLower]
  exact hnat c

/-- R146: a string without uppercase letters has no mix of cases. -/
theorem mixedCase_of_not_upper {str : List Elem} (h : ∀ c ∈ str, ¬ Ref.Upper c) : mixedCase str = false := by
  rw [← Bool.not_eq_true, mixedCase_iff]
  rintro ⟨-, c, hc, hup⟩
  exact h c hc hup

/-- R67: the characters of the alphabet are in the range of R145, and none is uppercase. -/
theorem charmap_chars : ∀ x : Symbol, (33 ≤ charmap x ∧ charmap x ≤ 126) ∧ ¬ Ref.Upper (charmap x) := by
  unfold Ref.Upper
  decide

theorem map_lower_map_charmap (xs : List Symbol) : (xs.map charmap).map lower = xs.map charmap := by
  rw [List.map_map]
  refine List.map_congr_left fun x _ => ?_
  obtain ⟨-, hup⟩ := charmap_chars x
  exact lower_of_not_upper hup

theorem charmap_injective : Function.Injective charmap := fun _ _ h =>
  Option.some.inj ((charunmap_eq_some.mpr rfl).symm.trans (charunmap_eq_some.mpr h))

/-! ## The split at the separator (R148) -/

/-- R70, R155: the decoder answers as the split of the lowercased string says, once the string tests pass. -/
theorem b32dec_eq_some_iff_splitsAs {str : List Elem} {hrp : List Code} {data : List Symbol} :
    b32dec str = some (hrp, data) ↔
      inRange str = true ∧ mixedCase str = false ∧ SplitsAs (str.map lower) hrp data := by
  rw [b32dec_eq_some_iff_stringDenotes, Ref.StringDenotes, inRange_iff, ← Bool.not_eq_true, mixedCase_iff, SplitsAs,
    map_lower_eq]
  simp only [verify_iff, map_charOf_ofSymbols, List.append_assoc, List.singleton_append, separator]

/-- R148: the last separator is where a string splits, so it splits in one way. -/
theorem append_separator_inj {front front' back back' : List Elem} (hback : separator ∉ back)
    (hback' : separator ∉ back') (h : front ++ separator :: back = front' ++ separator :: back') :
    front = front' ∧ back = back' := by
  have hlen : front.length = front'.length := by
    rw [← Option.some.injEq, ← lastSeparator_append hback, h, lastSeparator_append hback']
  obtain ⟨hfront, hrest⟩ := List.append_inj h hlen
  exact ⟨hfront, (List.cons.inj hrest).2⟩

/-! ## What B32ENC makes (R144, R157) -/

/-- R144: the string made is split by its separator. -/
theorem b32enc_eq_append (h : List Code) (d : List Symbol) :
    b32enc h d = ofCodes h ++ separator :: (d ++ create h d).map charmap := List.append_assoc ..

theorem map_lower_b32enc (h : List Code) (d : List Symbol) :
    (b32enc h d).map lower = (ofCodes h).map lower ++ separator :: (d ++ create h d).map charmap := by
  rw [b32enc_eq_append, List.map_append, List.map_cons, map_lower_map_charmap]
  rfl

/-- R144: with an HRP that meets R178, every character is in range and none is uppercase. -/
theorem b32enc_chars {h : List Code} (hh : Ref.HrpOk h) (d : List Symbol) :
    (∀ c ∈ b32enc h d, 33 ≤ c ∧ c ≤ 126) ∧ ∀ c ∈ b32enc h d, ¬ Ref.Upper c := by
  obtain ⟨-, -, hchars⟩ := hh
  refine forall₂_and.mp fun c hc => ?_
  simp only [b32enc, ofCodes, List.mem_append, List.mem_map, List.mem_singleton] at hc
  obtain (⟨x, hx, rfl⟩ | rfl) | ⟨x, -, rfl⟩ := hc
  · exact and_assoc.mpr (hchars x hx)
  · simp [separator, Ref.Upper]
  · exact charmap_chars x

/-- R106, R157: under an HRP that meets R178, the string made decodes to what it was made of. -/
theorem b32dec_b32enc {h : List Code} (hh : Ref.HrpOk h) (d : List Symbol) : b32dec (b32enc h d) = some (h, d) := by
  obtain ⟨hrange, hup⟩ := b32enc_chars hh d
  have hlower : (b32enc h d).map lower = b32enc h d :=
    (List.map_congr_left fun c hc => lower_of_not_upper (hup c hc)).trans (List.map_id _)
  have hcase : mixedCase (b32enc h d) = false := mixedCase_of_not_upper hup
  obtain ⟨hpos, hle, -⟩ := hh
  rw [b32dec_eq_some_iff_splitsAs, hlower]
  exact ⟨(inRange_iff _).mpr hrange, hcase, hpos, hle, create h d, rfl, b32enc_eq_append h d, verify_append_create h d⟩

/-- Settles O40: the HRP of a decoded string meets R178, and under such an HRP the string made decodes back. -/
theorem decodeAfterEncode : Obligations.DecodeAfterEncode := by
  refine ⟨fun h d => ⟨b32dec_hrpOk, fun hh => b32dec_b32enc hh d⟩, fun str h d hdec c hc => ?_⟩
  obtain ⟨-, -, hchars⟩ := b32dec_hrpOk hdec
  exact (hchars c hc).2.2

/-- R149: the HRP a made string decodes to is as long as the one it was made with. -/
theorem length_of_b32dec_b32enc {h hrp : List Code} {d data : List Symbol}
    (hdec : b32dec (b32enc h d) = some (hrp, data)) : hrp.length = h.length := by
  obtain ⟨-, -, -, -, checksum, -, heq, -⟩ := b32dec_eq_some_iff_splitsAs.mp hdec
  rw [map_lower_b32enc] at heq
  obtain ⟨hfront, -⟩ := append_separator_inj (separator_notMem_map_charmap _) (separator_notMem_map_charmap _) heq
  simpa using (congrArg List.length hfront).symm

/-- Settles O41: a decoded HRP has 1 to 83 characters, as many as the HRP the string was made with. -/
theorem hrpLengthBoundaryIsEnforced : Obligations.HrpLengthBoundaryIsEnforced := by
  intro h d hbad
  refine Option.eq_none_iff_forall_ne_some.mpr fun ⟨hrp, data⟩ hdec => ?_
  obtain ⟨hpos, hle, -⟩ := b32dec_hrpOk hdec
  rw [length_of_b32dec_b32enc hdec] at hpos hle
  obtain hlong | rfl := hbad
  · omega
  · cases hpos

/-! ## A changed data character (R107, R158) -/

/-- R107 (c): a changed symbol changes the accumulator of the run. -/
theorem polymod_set_ne {xs : List Symbol} {k : Nat} {x y : Symbol} (before : List Symbol) (hk : xs[k]? = some x)
    (hxy : x ≠ y) : polymod (before ++ xs) ≠ polymod (before ++ xs.set k y) := by
  obtain ⟨hlt, rfl⟩ := List.getElem?_eq_some_iff.mp hk
  obtain ⟨-, -, -, hsensitive⟩ := pmstepIsLinearAndSensitive
  have hset : xs.set k y = xs.take k ++ y :: xs.drop (k + 1) := by
    rw [List.set_eq_take_append_cons_drop, if_pos hlt]
  have hxs : xs = xs.take k ++ xs[k] :: xs.drop (k + 1) := by
    rw [List.getElem_cons_drop, List.take_append_drop]
  have hne := hsensitive (before ++ xs.take k) (xs.drop (k + 1)) _ _ hxy
  rwa [List.append_assoc, List.append_assoc, ← hset, ← hxs] at hne

/-- R105, R107 (c): of two symbol sequences that differ in one place, at most one verifies. -/
theorem not_verify_set {hrp : List Code} {xs : List Symbol} {k : Nat} {x y : Symbol} (hk : xs[k]? = some x)
    (hxy : x ≠ y) (hxs : verify hrp xs = true) : ¬ verify hrp (xs.set k y) = true := by
  rw [verify, beq_iff_eq] at hxs ⊢
  exact fun hset => polymod_set_ne (expand hrp) hk hxy (hxs.trans hset.symm)

/-- The characters of symbols with one place rewritten are those of the symbols with that place rewritten. -/
theorem exists_set_of_map_charmap_eq_set {xs ys : List Symbol} {k : Nat} {c : Elem} (hk : k < xs.length)
    (h : (xs.map charmap).set k c = ys.map charmap) : ∃ y, c = charmap y ∧ ys = xs.set k y := by
  have hc : (ys.map charmap)[k]? = some c := by rw [← h, List.getElem?_set_self (by simpa using hk)]
  rw [List.getElem?_map, Option.map_eq_some_iff] at hc
  obtain ⟨y, -, rfl⟩ := hc
  refine ⟨y, rfl, charmap_injective.list_map ?_⟩
  rw [← h, List.map_set]

/-- R158 (c): a string that splits no longer does once a character after its separator is another, not the separator:
the split stays where it is, and the symbols no longer verify. -/
theorem not_splitsAs_set {s : List Elem} {hrp hrp' : List Code} {data data' : List Symbol} {i : Nat} {old new : Elem}
    (hs : SplitsAs s hrp data) (hi : hrp.length < i) (hold : s[i]? = some old) (hnew : new ≠ separator)
    (hne : new ≠ old) : ¬ SplitsAs (s.set i new) hrp' data' := by
  rintro ⟨-, -, checksum', -, heq', hverify'⟩
  obtain ⟨-, -, checksum, -, rfl, hverify⟩ := hs
  obtain ⟨k, rfl⟩ : ∃ k, i = hrp.length + (k + 1) := ⟨i - hrp.length - 1, by omega⟩
  rw [List.getElem?_append_right (by simp), ofCodes_length, Nat.add_sub_cancel_left, List.getElem?_cons_succ,
    List.getElem?_map, Option.map_eq_some_iff] at hold
  obtain ⟨x, hx, rfl⟩ := hold
  rw [List.set_append_right _ _ (by simp), ofCodes_length, Nat.add_sub_cancel_left, List.set_cons_succ] at heq'
  have hback : separator ∉ ((data ++ checksum).map charmap).set k new := fun hmem =>
    (List.mem_or_eq_of_mem_set hmem).elim (separator_notMem_map_charmap _) hnew.symm
  obtain ⟨hfront, hsyms⟩ := append_separator_inj hback (separator_notMem_map_charmap _) heq'
  obtain rfl : hrp = hrp' := by rw [← map_ofNat_ofCodes hrp, hfront, map_ofNat_ofCodes]
  obtain ⟨hlt, -⟩ := List.getElem?_eq_some_iff.mp hx
  obtain ⟨y, rfl, hset⟩ := exists_set_of_map_charmap_eq_set hlt hsyms
  rw [hset] at hverify'
  exact not_verify_set hx (fun hxy => hne (congrArg charmap hxy.symm)) hverify hverify'

/-- Settles O43: a string that decodes splits, and after the change it cannot (`not_splitsAs_set`). -/
theorem oneChangedDataCharacterFails : Obligations.OneChangedDataCharacterFails := by
  intro str hrp data i old new hdec hi hold hnew hne
  rw [← lower_eq_toLower, ← lower_eq_toLower] at hne
  obtain ⟨-, -, hsplits⟩ := b32dec_eq_some_iff_splitsAs.mp hdec
  refine Option.eq_none_iff_forall_ne_some.mpr fun ⟨hrp', data'⟩ hdec' => ?_
  obtain ⟨-, -, hsplits'⟩ := b32dec_eq_some_iff_splitsAs.mp hdec'
  rw [List.map_set] at hsplits'
  exact not_splitsAs_set hsplits hi (by rw [List.getElem?_map, hold]; rfl)
    (mt (lower_eq_separator_iff new).mp hnew) hne hsplits'

end Sys2Proof.Laws
end

section
/-! PROOF. Unit U3's commands: what B32ENC delivers (R144), the tests of B32DEC (R145 to R153), and the uppercase form of a
string (R147). -/

namespace Sys2Proof.Laws

open Sys2Proof.Machine

/-! ## B32ENC -/

/-- R144: the string made is the spec's. -/
theorem b32enc_eq_encoded (h : List Code) (xs : List Symbol) :
    b32enc h xs = Ref.encoded (ofCodes h) (ofSymbols xs) := by
  rw [b32enc, Ref.encoded, ← ofSymbols_create, ← ofSymbols_append, map_charOf_ofSymbols]
  rfl

/-- Settles O37: the guard on symbols and on three lengths, and the spec's string. -/
theorem b32encDeliversTheString : Obligations.B32encDeliversTheString := by
  intro s
  refine ⟨fun hd hh hlen hout => ?_, fun h => refuses_of_refused (unlessRefused_symbols_refused ?_)⟩
  · obtain ⟨t, hexec, hst, ho, -, -, hin⟩ :=
      exec_of_ok (i := .b32enc) (s := s) (unlessRefused_of_symbols hd (by simp [hh, hlen, encodedLength, hout]) _)
    refine ⟨t, hexec, hst, ?_, hin⟩
    rw [ho, Option.getD_some, b32enc_eq_encoded, ofSymbols_toSymbols _ hd]
  · simpa [encodedLength] using h

/-! ## The tests of B32DEC -/

/-- R148: lowercasing moves no separator. -/
theorem lastSeparator_map_lower (s : List Elem) : lastSeparator (s.map lower) = lastSeparator s := by
  induction s with
  | nil => rfl
  | cons c cs ih => simp only [List.map_cons, lastSeparator, ih, lower_eq_separator_iff]

/-- R149 to R154: what a string that decodes is like around its last separator. -/
theorem b32dec_at_lastSeparator {str : List Elem} {hrp : List Code} {data : List Symbol} {pos : Nat}
    (hdec : b32dec str = some (hrp, data)) (hpos : Ref.LastSeparatorAt str pos) :
    1 ≤ pos ∧ pos ≤ 83 ∧ 6 ≤ str.length - pos - 1 ∧
      ∃ syms : List Symbol, (str.drop (pos + 1)).map Ref.toLower = syms.map charmap ∧
        Ref.polymod (Ref.expand ((str.take pos).map Ref.toLower) ++ ofSymbols syms) = 1 := by
  obtain ⟨-, -, hge, hle, checksum, hck, heq, hverify⟩ := b32dec_eq_some_iff_splitsAs.mp hdec
  have hlast : lastSeparator (str.map lower) = some pos := by
    rw [lastSeparator_map_lower]
    exact (lastSeparator_eq_some str pos).mpr hpos
  rw [heq, lastSeparator_append (separator_notMem_map_charmap _), ofCodes_length, Option.some.injEq] at hlast
  subst hlast
  have hlen : str.length = hrp.length + (data.length + 6 + 1) := by simpa [hck] using congrArg List.length heq
  refine ⟨hge, hle, by omega, data ++ checksum, ?_, ?_⟩
  · rw [← map_lower_eq, List.map_drop, heq, List.append_cons, List.drop_left' (by simp)]
  · rw [← map_lower_eq, List.map_take, heq, List.take_left' (ofCodes_length hrp)]
    exact (verify_iff hrp _).mp hverify

/-- Symbols are known by their characters, as numbers too. -/
theorem eq_ofSymbols_of_map_charOf {d : List Nat} {xs : List Symbol} (hd : ∀ e ∈ d, e ≤ 31)
    (h : xs.map charmap = d.map Ref.charOf) : d = ofSymbols xs := by
  rw [← ofSymbols_toSymbols d hd, map_charOf_ofSymbols] at h
  rw [charmap_injective.list_map h, ofSymbols_toSymbols d hd]

/-- R190: B32DEC on a string within `SEQ_MAX` that does not decode ends in FAIL. -/
theorem exec_b32dec_of_none {s : State} (hd : fitsSeq s.d.length = true) (hnone : b32dec s.d = none) :
    ∃ t, exec .b32dec s = .next t ∧ t.status = .fail := by
  have hend := b32decCommand_of_fits hd
  rw [hnone] at hend
  exact ⟨_, exec_eq .b32dec s, (complete_status ..).trans (congrArg Ending.status hend)⟩

/-- Settles O38: a string that decodes passes each test, the last five by `b32dec_at_lastSeparator`. -/
theorem b32decRejectsByEachTest : Obligations.B32decRejectsByEachTest := by
  intro s hfits hbad
  refine exec_b32dec_of_none hfits (Option.eq_none_iff_forall_ne_some.mpr fun ⟨hrp, data⟩ hdec => ?_)
  obtain ⟨hrange, hcase, -, -, checksum, -, heq, -⟩ := b32dec_eq_some_iff_splitsAs.mp hdec
  obtain ⟨c, hc, hout⟩ | hmixed | hsep | ⟨pos, hpos, hbad⟩ := hbad
  · obtain ⟨hlo, hhi⟩ := (inRange_iff s.d).mp hrange c hc
    exact hout.elim (Nat.not_lt.mpr hlo) (Nat.not_lt.mpr hhi)
  · rw [(mixedCase_iff s.d).mpr hmixed] at hcase
    cases hcase
  · obtain ⟨c, hc, hcsep⟩ : ∃ c ∈ s.d, lower c = separator := List.mem_map.mp (by rw [heq]; simp)
    rw [(lower_eq_separator_iff c).mp hcsep] at hc
    exact hsep hc
  · obtain ⟨hge, hle, hlen, syms, hsyms, hrun⟩ := b32dec_at_lastSeparator hdec hpos
    obtain h | h | h | ⟨c, hc, hout⟩ | ⟨xs, hxs, hmap, hne⟩ := hbad
    · omega
    · omega
    · omega
    · obtain ⟨x, -, hx⟩ : ∃ x ∈ syms, charmap x = Ref.toLower c :=
        List.mem_map.mp (hsyms ▸ List.mem_map_of_mem hc)
      obtain ⟨hall, -⟩ := alphabetIsTheSpecString
      rw [← hx] at hout
      exact hout (List.mem_of_getElem? (hall x))
    · rw [← eq_ofSymbols_of_map_charOf hxs (hsyms.symm.trans hmap)] at hrun
      exact hne hrun

/-! ## The uppercase form (R71, R147) -/

/-- R145 to R155: the decoder sees a string's range, its mix of cases and its lowercase form, no more. -/
theorem b32dec_congr {s t : List Elem} (hrange : inRange s = inRange t) (hcase : mixedCase s = mixedCase t)
    (hlower : s.map lower = t.map lower) : b32dec s = b32dec t := by
  simp only [b32dec, hrange, hcase, hlower]

theorem inRange_map_toUpper (str : List Elem) : inRange (str.map Ref.toUpper) = inRange str := by
  have hchar : ∀ c, (33 ≤ Ref.toUpper c ∧ Ref.toUpper c ≤ 126) ↔ (33 ≤ c ∧ c ≤ 126) := by
    intro c
    unfold Ref.toUpper
    split <;> omega
  rw [Bool.eq_iff_iff, inRange_iff, inRange_iff, List.forall_mem_map]
  exact forall₂_congr fun c _ => hchar c

theorem not_lower_toUpper (c : Nat) : ¬ Ref.Lower (Ref.toUpper c) := by
  unfold Ref.Lower Ref.toUpper
  split <;> omega

/-- R71: a character that is not uppercase comes back from its uppercase form. -/
theorem toLower_toUpper {c : Nat} (h : ¬ Ref.Upper c) : Ref.toLower (Ref.toUpper c) = c := by
  unfold Ref.Upper at h
  unfold Ref.toLower Ref.toUpper
  split_ifs <;> omega

theorem lower_toUpper {c : Nat} (h : ¬ Ref.Upper c) : lower (Ref.toUpper c) = lower c := by
  rw [lower_of_not_upper h, lower_eq_toLower, toLower_toUpper h]

/-- Settles O42: neither form has a mix of cases, and the range and the lowercase form are the same. -/
theorem uppercaseFormDecodesAlike : Obligations.UppercaseFormDecodesAlike := by
  intro str hup
  have hcase : mixedCase (str.map Ref.toUpper) = false := by
    rw [← Bool.not_eq_true, mixedCase_iff]
    rintro ⟨⟨_, hc, hlow⟩, -⟩
    obtain ⟨c, -, rfl⟩ := List.mem_map.mp hc
    exact not_lower_toUpper c hlow
  refine b32dec_congr (inRange_map_toUpper str) (hcase.trans (mixedCase_of_not_upper hup).symm) ?_
  rw [List.map_map]
  exact List.map_congr_left fun c hc => lower_toUpper (hup c hc)

end Sys2Proof.Laws
end

section
/-! PROOF. Unit U4: WDEC against the address of R170 to R175, WENC against the conditions of R178, and the round trip of
R177 and R179. -/

namespace Sys2Proof.Laws

open Sys2Proof.Machine

/-! ## WDEC -/

/-- R174, R175: the length test and the version test together. -/
theorem programTests_iff (ver : Symbol) (n : Nat) :
    programLengthOk n = true ∧ versionOk ver n = true ↔ Ref.ProgramOk ver n := by
  have hver : (ver != 0#5 || n == 20 || n == 32) = true ↔ (ver = 0 → n = 20 ∨ n = 32) := by
    simp [or_assoc, imp_iff_not_or]
  simp only [programLengthOk, versionOk, Bool.and_eq_true, decide_eq_true_eq, hver, Ref.ProgramOk, and_assoc]

/-- R173 to R175: the data symbols that stand for a version and a program. -/
theorem witnessOf_eq_some_iff_programOk {data : List Symbol} {ver : Symbol} {prog : List Elem} :
    witnessOf data = some (ver, prog) ↔
      ∃ syms, data = ver :: syms ∧ convertbits (ofSymbols syms) 5 8 false = some prog ∧
        Ref.ProgramOk ver prog.length := by
  simp only [witnessOf_eq_some, programTests_iff]

/-- R170 to R175: WDEC's function answers exactly what the address stands for. -/
theorem wdec_eq_some_iff_addressDenotes {h : List Code} {addr prog : List Elem} {ver : Symbol} :
    wdec h addr = some (ver, prog) ↔ Ref.AddressDenotes h addr ver prog := by
  simp only [wdec_eq_some, witnessOf_eq_some_iff_programOk, b32dec_eq_some_iff_stringDenotes,
    convertbits_eq_conversion (show 1 ≤ 8 by decide)]
  constructor
  · rintro ⟨_, hden, syms, rfl, hprog⟩
    exact ⟨syms, hden, hprog⟩
  · rintro ⟨syms, hden, hprog⟩
    exact ⟨_, hden, syms, rfl, hprog⟩

/-- R190: the record after a command that ends `fail`. -/
theorem exec_of_fail {i : Instr} {s : State} (h : endingOf i s.h s.d = .fail) :
    ∃ t, exec i s = .next t ∧ t.status = .fail ∧ Ref.KeepsInputs s t :=
  ⟨_, exec_eq i s, (complete_status ..).trans (congrArg Ending.status h), complete_keepsInputs _ _ _⟩

/-- R170, R190: on lengths within `SEQ_MAX` WDEC ends as its function answers. -/
theorem wdecCommand_of_fits {h : List Code} {d : List Elem} (hh : fitsSeq h.length = true)
    (hd : fitsSeq d.length = true) :
    wdecCommand h d = (wdec h d).elim .fail fun r => .ok { v := some r.1, o := some r.2 } := by
  rw [wdecCommand, unlessRefused_of_lengths (by simp [hh, hd])]
  cases wdec h d <;> rfl

/-- Settles O44: the command ends as its function answers, and that is what the address stands for
(`wdec_eq_some_iff_addressDenotes`). -/
theorem wdecAcceptsExactlyTheAddresses : Obligations.WdecAcceptsExactlyTheAddresses := by
  intro s hh hd
  have hend : endingOf .wdec s.h s.d = _ := wdecCommand_of_fits hh hd
  constructor
  · intro ver prog hden
    rw [wdec_eq_some_iff_addressDenotes.mpr hden] at hend
    obtain ⟨t, hexec, hst, ho, -, hv, hin⟩ := exec_of_ok hend
    exact ⟨t, hexec, hst, hv, ho, hin⟩
  · intro hnone
    have hdec : wdec s.h s.d = none := Option.eq_none_iff_forall_ne_some.mpr fun ⟨ver, prog⟩ hsome =>
      hnone ⟨ver, prog, wdec_eq_some_iff_addressDenotes.mp hsome⟩
    rw [hdec] at hend
    exact exec_of_fail hend

/-! ## WENC -/

/-- R157: a made string decodes to the HRP it was made with only when that HRP is legal, and then to its data. -/
theorem wdec_b32enc_eq_some {h : List Code} {data : List Symbol} {ver : Symbol} {prog : List Elem} :
    wdec h (b32enc h data) = some (ver, prog) ↔ Ref.HrpOk h ∧ witnessOf data = some (ver, prog) := by
  rw [wdec_eq_some]
  constructor
  · rintro ⟨data', hdec, hwit⟩
    have hh := b32dec_hrpOk hdec
    obtain ⟨-, rfl⟩ : h = h ∧ data = data' := by simpa [b32dec_b32enc hh] using hdec
    exact ⟨hh, hwit⟩
  · rintro ⟨hh, hwit⟩
    exact ⟨data, b32dec_b32enc hh data, hwit⟩

section Symbols
variable {prog syms : List Elem} (hsyms : convertbits prog 8 5 true = some syms)
include hsyms

/-- R129: the program's symbols lose nothing as 5-bit symbols. -/
theorem ofSymbols_toSymbols_of_convertbits : ofSymbols (toSymbols syms) = syms := by
  obtain ⟨-, hfits⟩ := convertbits_spec (by decide) hsyms
  exact ofSymbols_toSymbols syms hfits.le

/-- R130: a version before the symbols of a program stands for just that version and program, when R174 and R175 allow
them. -/
theorem witnessOf_of_convertbits {ver ver' : Symbol} {prog' : List Elem} :
    witnessOf (ver :: toSymbols syms) = some (ver', prog') ↔
      (ver' = ver ∧ prog' = prog) ∧ Ref.ProgramOk ver prog.length := by
  have hback : convertbits syms 5 8 false = some prog :=
    (convertbits_pad_iff_strict (by decide) (by decide)).mp hsyms
  rw [witnessOf_eq_some_iff_programOk]
  constructor
  · rintro ⟨xs, heq, hconv, hok⟩
    obtain ⟨rfl, rfl⟩ := List.cons.inj heq
    rw [ofSymbols_toSymbols_of_convertbits hsyms, hback] at hconv
    obtain rfl := Option.some.inj hconv
    exact ⟨⟨rfl, rfl⟩, hok⟩
  · rintro ⟨⟨rfl, rfl⟩, hok⟩
    exact ⟨_, rfl, by rw [ofSymbols_toSymbols_of_convertbits hsyms, hback], hok⟩

/-- R177: what WENC's self-check answers on the string it made. -/
theorem wdec_b32enc_of_convertbits {h : List Code} {ver ver' : Symbol} {prog' : List Elem} :
    wdec h (b32enc h (ver :: toSymbols syms)) = some (ver', prog') ↔
      (ver' = ver ∧ prog' = prog) ∧ Ref.WitnessOk h ver prog := by
  have hbytes : ∀ e ∈ prog, e ≤ 255 := (fits_of_convertbits hsyms).le
  rw [wdec_b32enc_eq_some, witnessOf_of_convertbits hsyms, and_left_comm, Ref.WitnessOk, and_iff_right hbytes]

end Symbols

/-- R176 to R178: WENC's function succeeds exactly under (a) to (g), with the string made of the version and the
program's symbols. -/
theorem wenc_eq_some_iff_witnessOk {h : List Code} {ver : Symbol} {prog str : List Elem} :
    wenc h ver prog = some str ↔ Ref.WitnessOk h ver prog ∧
      ∃ syms, convertbits prog 8 5 true = some syms ∧ str = b32enc h (ver :: toSymbols syms) := by
  rw [wenc_eq_some]
  constructor
  · rintro ⟨syms, hsyms, rfl, hcheck⟩
    obtain ⟨⟨ver', prog'⟩, hdec⟩ := Option.isSome_iff_exists.mp hcheck
    obtain ⟨-, hok⟩ := (wdec_b32enc_of_convertbits hsyms).mp hdec
    exact ⟨hok, syms, hsyms, rfl⟩
  · rintro ⟨hok, syms, hsyms, rfl⟩
    have hdec := (wdec_b32enc_of_convertbits hsyms).mpr ⟨⟨rfl, rfl⟩, hok⟩
    exact ⟨syms, hsyms, rfl, by rw [hdec]; rfl⟩

/-- R178: under (a) to (g) there is such a string. -/
theorem exists_wenc_of_witnessOk {h : List Code} {ver : Symbol} {prog : List Elem} (hok : Ref.WitnessOk h ver prog) :
    ∃ syms, convertbits prog 8 5 true = some syms ∧ wenc h ver prog = some (b32enc h (ver :: toSymbols syms)) := by
  obtain ⟨hencodes, -⟩ := convertbitsRoundTrip
  obtain ⟨syms, hsyms, -⟩ := hencodes prog hok.1
  exact ⟨syms, hsyms, wenc_eq_some_iff_witnessOk.mpr ⟨hok, syms, hsyms, rfl⟩⟩

/-- R144, R178: the made string as R178 writes it. -/
theorem b32enc_witness_eq_encoded {prog syms : List Elem} (hsyms : convertbits prog 8 5 true = some syms)
    (h : List Code) (ver : Symbol) :
    b32enc h (ver :: toSymbols syms) = Ref.encoded (ofCodes h) (ver.toNat :: syms) := by
  have hcons : ofSymbols (ver :: toSymbols syms) = ver.toNat :: ofSymbols (toSymbols syms) := rfl
  rw [b32enc_eq_encoded, hcons, ofSymbols_toSymbols_of_convertbits hsyms]

/-- R176, R190: on lengths within `SEQ_MAX` WENC ends as its function answers. -/
theorem wencCommand_of_fits {ver : Symbol} {h : List Code} {d : List Elem} (hh : fitsSeq h.length = true)
    (hd : fitsSeq d.length = true)
    (hout : fitsSeq (encodedLength h.length (1 + convertedLength true 8 5 d.length)) = true) :
    wencCommand ver h d = (wenc h ver d).elim .fail fun str => .ok { o := some str } := by
  rw [wencCommand, unlessRefused_of_lengths (by simp [hh, hd, hout])]
  cases wenc h ver d <;> rfl

/-- Settles O45: the command ends as its function answers, which succeeds exactly under (a) to (g)
(`wenc_eq_some_iff_witnessOk`). -/
theorem wencSucceedsExactlyWhen : Obligations.WencSucceedsExactlyWhen := by
  intro ver s hh hd hout
  have hend : endingOf (.wenc ver) s.h s.d = _ := wencCommand_of_fits hh hd hout
  constructor
  · intro hok
    obtain ⟨syms, hsyms, hstr⟩ := exists_wenc_of_witnessOk hok
    rw [hstr] at hend
    obtain ⟨t, hexec, hst, ho, -, -, hin⟩ := exec_of_ok hend
    refine ⟨t, syms, hexec, hst, ?_, ho.trans (b32enc_witness_eq_encoded hsyms s.h ver), ?_, hin⟩
    · rw [← convertbits_eq_conversion (by decide), hsyms]
    · rw [ho]
      exact wenc_length hstr
  · intro hbad
    have henc : wenc s.h ver s.d = none := Option.eq_none_iff_forall_ne_some.mpr fun str hsome =>
      hbad (wenc_eq_some_iff_witnessOk.mp hsome).1
    rw [henc] at hend
    exact exec_of_fail hend

/-! ## The round trip (R177, R179) -/

/-- Settles O47: the string passed the self-check, which can answer only the version and program encoded
(`wdec_b32enc_of_convertbits`). -/
theorem selfCheckImpliesSameWitness : Obligations.SelfCheckImpliesSameWitness := by
  intro h ver prog str hstr
  obtain ⟨hok, syms, hsyms, rfl⟩ := wenc_eq_some_iff_witnessOk.mp hstr
  exact (wdec_b32enc_of_convertbits hsyms).mpr ⟨⟨rfl, rfl⟩, hok⟩

/-- Settles O46: under (a) to (g) a string is made, and its self-check answered what was encoded. -/
theorem witnessRoundTrip : Obligations.WitnessRoundTrip := by
  intro h ver prog hok
  obtain ⟨syms, -, hstr⟩ := exists_wenc_of_witnessOk hok
  exact ⟨_, hstr, selfCheckImpliesSameWitness h ver prog _ hstr⟩

end Sys2Proof.Laws
end

section
/-! PROOF. How a command ends (60_exceptions.md): it is refused exactly for the four reasons of R193, five commands never
fail (R191), a failure delivers nothing (R195), and every step answers (R190). -/

namespace Sys2Proof.Laws

open Sys2Proof.Machine

/-! ## The reasons of R193, for a command -/

/-- R108: the commands under the symbol contract. -/
def readsSymbols : Instr → Bool
  | .polymod | .verify | .create | .b32enc => true
  | .expand | .convertbits _ _ _ | .b32dec | .wenc _ | .wdec => false

/-- R193 row 4: the lengths tested against `SEQ_MAX`, from `nh` characters in `H` and `nd` elements in `D`: of the
sequences the command reads (R41), then of an output that can be longer than they are (log 10). -/
def testedLengths (i : Instr) (nh nd : Nat) : List Nat :=
  match i with
  | .expand => [nh, 2 * nh + 1]
  | .polymod | .b32dec => [nd]
  | .verify | .wdec => [nh, nd]
  | .create => [nh, nd, 6]
  | .convertbits pad f t => [nd, convertedLength pad f.toNat t.toNat nd]
  | .b32enc => [nh, nd, encodedLength nh nd]
  | .wenc _ => [nh, nd, encodedLength nh (1 + convertedLength true 8 5 nd)]

/-- R193, R194: the reasons to refuse a command, in the order they are tested; `none` is a reason that does not hold. -/
def reasonsOf (i : Instr) (h : List Code) (d : List Elem) : List (Option RefuseReason) :=
  [if i.wellFormed then none else some .illegalWidth, if readsSymbols i then symbolRefusal d else none,
    lengthRefusal (testedLengths i h.length d.length)]

/-- R6: a length does not fit exactly when the build has a `SEQ_MAX` and it is longer. -/
theorem fitsSeq_eq_false_iff (n : Nat) : fitsSeq n = false ↔ ∃ m, Config.seqMax = some m ∧ m < n := by
  rw [← Bool.not_eq_true, fitsSeq_iff]
  push Not
  rfl

theorem exists_not_fitsSeq_iff (lens : List Nat) :
    (∃ n ∈ lens, fitsSeq n = false) ↔ ∃ m, Config.seqMax = some m ∧ ∃ n ∈ lens, m < n := by
  simp only [fitsSeq_eq_false_iff]
  exact ⟨fun ⟨n, hn, m, hm, hlt⟩ => ⟨m, hm, n, hn, hlt⟩, fun ⟨m, hm, n, hn, hlt⟩ => ⟨n, hn, m, hm, hlt⟩⟩

/-! ## The reasons of R193, for a word -/

section WordReasons
variable {w : Word} {i : Instr} (hw : HasFields w i)
include hw

/-- R64: only a CONVERTBITS breaks it. -/
theorem HasFields.illegalWidth_iff : Ref.IllegalWidth w ↔ i.wellFormed = false := by
  rw [Ref.IllegalWidth, hw.field_op, hw.field_from, hw.field_to]
  cases i with
  | convertbits pad f t =>
    rw [← Bool.not_eq_true, Instr.wellFormed, Bool.and_eq_true, legalWidth_iff, legalWidth_iff, and_assoc]
    exact and_iff_right rfl
  | _ => simp [opNumber, Instr.wellFormed]

/-- R193 row 3: `OP` is that of a command under the symbol contract. -/
theorem HasFields.symbolBroken_iff (d : List Elem) :
    Ref.SymbolBroken w d ↔ readsSymbols i = true ∧ ∃ e ∈ d, 31 < e := by
  rw [Ref.SymbolBroken, hw.field_op]
  refine and_congr_left fun _ => ?_
  cases i <;> simp [opNumber, readsSymbols]

/-- R193 row 4: the sequences and the output named for the `OP` are those whose lengths are tested. -/
theorem HasFields.tooLong_iff (h : List Code) (d : List Elem) :
    Ref.TooLong w h d ↔ ∃ n ∈ testedLengths i h.length d.length, fitsSeq n = false := by
  rw [exists_not_fitsSeq_iff, Ref.TooLong, Ref.outputLength, hw.field_op, hw.field_pad, hw.field_from, hw.field_to]
  refine exists_congr fun m => and_congr_right fun _ => ?_
  cases i with
  | convertbits pad f t => cases pad <;> simp [opNumber, padOf, fromOf, toOf, testedLengths, convertedLength]
  | wenc ver => simp [opNumber, testedLengths, encodedLength, convertedLength, Nat.mul_comm 8]
  | _ => simp [opNumber, testedLengths, encodedLength]

end WordReasons

/-- R62, R63: what a word that is no illegal command has: an `OP` in 1..9, and 0 in every reserved and unused field. -/
theorem fields_of_not_illegalCommand {w : Word} (hw : ¬ Ref.IllegalCommand w) :
    (1 ≤ (opField w).toNat ∧ (opField w).toNat ≤ 9) ∧ reservedClear w = true ∧
      ((opField w).toNat ≠ 5 → convFieldsClear w = true) ∧ ((opField w).toNat ≠ 8 → verFieldClear w = true) := by
  simp only [Ref.IllegalCommand, field_eq_extractLsb', extractLsb'_padField] at hw
  push Not at hw
  obtain ⟨hpos, hle, h5, h14, h22, h29, hconv, hver⟩ := hw
  refine ⟨⟨Nat.one_le_iff_ne_zero.mpr hpos, Nat.le_of_lt_succ hle⟩, ?_, fun hop => ?_, fun hop => ?_⟩
  · exact (reservedClear_iff w).mpr ⟨BitVec.eq_of_toNat_eq h5, BitVec.eq_of_toNat_eq h14, BitVec.eq_of_toNat_eq h22,
      BitVec.eq_of_toNat_eq h29⟩
  · obtain ⟨hpad, hfrom, hto⟩ := hconv hop
    exact (convFieldsClear_iff w).mpr ⟨by simpa using hpad, BitVec.eq_of_toNat_eq hfrom, BitVec.eq_of_toNat_eq hto⟩
  · exact (verFieldClear_iff w).mpr (BitVec.eq_of_toNat_eq (hver hop))

/-- R63: a word that does not decode is an illegal command. -/
theorem illegalCommand_of_decode_error {w : Word} {why : DecodeError} (hw : decode w = .error why) :
    Ref.IllegalCommand w := by
  by_contra hlegal
  obtain ⟨⟨hpos, hle⟩, hclear, hconv, hver⟩ := fields_of_not_illegalCommand hlegal
  interval_cases hnumber : (opField w).toNat
  all_goals simp [decode, ifUnusedClear, hclear, hnumber, hconv, hver] at hw

/-! ## When a command is refused, and when it fails -/

/-- A reason that does not hold changes nothing in second place either. -/
theorem unlessRefused_cons_none (r : Option RefuseReason) (why : List (Option RefuseReason)) (e : Ending) :
    unlessRefused (r :: none :: why) e = unlessRefused (r :: why) e := by cases r <;> rfl

/-- R194: every command tests its reasons, and then ends `ok` or `fail`. -/
theorem exists_endingOf_eq_unlessRefused (i : Instr) (h : List Code) (d : List Elem) :
    ∃ e : Ending, e.status ≠ .refused ∧ endingOf i h d = unlessRefused (reasonsOf i h d) e := by
  cases i
  case convertbits =>
    refine ⟨_, ?_, (unlessRefused_cons_none ..).symm⟩
    split <;> nofun
  case b32dec | wenc | wdec =>
    refine ⟨_, ?_, rfl⟩
    split <;> nofun
  all_goals exact ⟨.ok _, nofun, rfl⟩

/-- R193: a command that decodes is refused exactly for a width, a symbol or a length. -/
theorem endingOf_status_eq_refused (i : Instr) (h : List Code) (d : List Elem) :
    (endingOf i h d).status = .refused ↔
      i.wellFormed = false ∨ (readsSymbols i = true ∧ ∃ e ∈ d, 31 < e) ∨
        ∃ n ∈ testedLengths i h.length d.length, fitsSeq n = false := by
  obtain ⟨e, he, hend⟩ := exists_endingOf_eq_unlessRefused i h d
  rw [hend, unlessRefused_status_eq_refused he, reasonsOf, List.exists_mem_cons_iff, List.exists_mem_cons_iff,
    List.exists_mem_cons_iff, lengthRefusal_ne_none, ← symbolRefusal_ne_none]
  simp

/-- R191: what ends `ok` unless it is refused never fails. -/
theorem unlessRefused_ok_status_ne_fail (why : List (Option RefuseReason)) (res : Results) :
    (unlessRefused why (.ok res)).status ≠ .fail := by
  obtain ⟨r, -, h⟩ | ⟨-, h⟩ := unlessRefused_cases why (.ok res)
  all_goals
    rw [h]
    nofun

/-! ## The outcomes, settled -/

/-- Settles O18: a word that does not decode is an illegal command; one that does is refused as its command is
(`endingOf_status_eq_refused`), whose reasons are those of the word's fields. -/
theorem refusedExactlyForTheFourReasons : Obligations.RefusedExactlyForTheFourReasons := by
  intro s w h d rest hp
  cases hw : decode w with
  | error why =>
    exact ⟨_, step_of_decode_error hp hw, iff_of_true rfl (.inl (illegalCommand_of_decode_error hw))⟩
  | ok i =>
    obtain ⟨-, hfields⟩ := decode_eq_ok_iff_hasFields.mp hw
    refine ⟨_, (step_of_decode_ok hp hw).trans (exec_eq i _), ?_⟩
    rw [complete_status, or_iff_right (not_illegalCommand_of_decode hw), hfields.illegalWidth_iff,
      hfields.symbolBroken_iff, hfields.tooLong_iff]
    exact endingOf_status_eq_refused i h d

/-- Settles O9: one act of the host a step. -/
theorem everyStepAnswersANextState : Obligations.EveryStepAnswersANextState := step_pending

/-- Settles O16: a status that is not `ok` comes with free values in every field, and no command writes its inputs. -/
theorem failureDeliversNothing : Obligations.FailureDeliversNothing := by
  intro i s t hexec hfail
  obtain ⟨hnothing, -⟩ := undeliveredFieldsAreFree i s t hexec
  exact ⟨hnothing (by simp [hfail]), inputsAreNeverWritten i s t hexec⟩

/-- Settles O17: the execution of each of the five ends `ok`. -/
theorem fiveCommandsNeverFail : Obligations.FiveCommandsNeverFail := by
  intro i s t hi hexec
  obtain rfl := exec_eq_next hexec
  rw [complete_status]
  simp only [List.mem_cons, List.not_mem_nil, or_false] at hi
  obtain rfl | rfl | rfl | rfl | rfl := hi
  all_goals exact unlessRefused_ok_status_ne_fail _ _

end Sys2Proof.Laws
end

section
/-! PROOF. The steps that serve no command: the idle block, and the reset (R51, R220). -/

namespace Sys2Proof.Laws

open Sys2Proof.Machine

/-- R51: with no act to serve the block stays as it is. -/
theorem step_of_idle {s : State} (hp : s.pending = []) : step s = .next s := by
  simp only [step, hp]

/-- R220: the step at a reset resets the block. -/
theorem step_of_reset {s : State} {rest : List HostAct} (hp : s.pending = .reset :: rest) :
    step s = .next (s.resetBlock rest) := by
  simp only [step, hp]

/-- Settles O8: of the state after a reset, the inputs are those before it and the list is the rest. -/
theorem stepOfAnIdleOrResetBlock : Obligations.StepOfAnIdleOrResetBlock := by
  refine ⟨fun _ hp => step_of_idle hp, fun s rest hp => ⟨s.resetBlock rest, step_of_reset hp, ?_, ?_, ?_, ?_⟩⟩
  · exact State.resetBlock_pending s rest
  · exact State.resetBlock_cmd s rest
  · exact State.resetBlock_h s rest
  · exact State.resetBlock_d s rest

end Sys2Proof.Laws
end
